-- ==== Sys2Proof/Word.lean ====
section
/-! DEFINITION. The words of the model: bytes on the wire, signed 32-bit measurement values that the device copies and
never computes with (R13, R115), and grid times, the pair of R1. -/

namespace Sys2Proof

/-- One byte of a frame or of a time message. -/
abbrev Byte := BitVec 8

/-- A signed 32-bit measurement value, copied unchanged from a report into a cell (R13, R115). -/
abbrev Word32 := BitVec 32

/-- A grid time: whole seconds 0 to 4,294,967,295 and nanoseconds 0 to 999,999,999 (R1). -/
structure GridTime where
  sec : Nat
  ns  : Nat
  deriving DecidableEq, Repr

end Sys2Proof
end

