-- ==== Sys2Proof/Config.lean ====
section
/-! DEFINITION. What the part fixes (the capacities of Table 0-2 and the lengths of its fixed timers) and the one free value. -/

namespace Sys2Proof.Config

/-- FREE VALUE (log 11). R55 clears the pending shape and the confirmation count when a shape change reverts and does not
say whether the return state is cleared with them. True: the descriptor keeps it. Nothing in the model knows which. -/
opaque revertKeepsReturnState : Bool

/-- Table 0-2: instant records in the Timeline. -/
abbrev recordCapacity : Nat := 512
/-- Table 0-2: report slots in the Report Store (R70). -/
abbrev slotCapacity : Nat := 16384
/-- Table 0-2: sets per Set Queue (R128). -/
abbrev setQueueCapacity : Nat := 16
/-- Table 0-2: notices in the Notice Queue (R160). -/
abbrev noticeCapacity : Nat := 256
/-- Table 0-2: frames per line-link receive queue (R168). -/
abbrev receiveCapacity : Nat := 32
/-- Table 0-2: frames in the pass-through queue (R169). -/
abbrev passThroughCapacity : Nat := 64
/-- Table 0-2: requests in the management input queue (R181). -/
abbrev inputCapacity : Nat := 4
/-- Table 0-2: answers per answer queue (R171). -/
abbrev answerCapacity : Nat := 8
/-- Table 0-2: cells per set fragment (R173). -/
abbrev cellsPerFragment : Nat := 120
/-- R174: notices per notice frame. -/
abbrev noticesPerFrame : Nat := 8
/-- The highest value of a 16-bit saturating counter (00, 0.5). -/
abbrev counterMax : Nat := 65535
/-- The last second of grid time (R1). -/
abbrev lastSecond : Nat := 4294967295
/-- Nanoseconds in a second. -/
abbrev second : Nat := 1000000000
/-- R59: the length of the latency period, 10 s, in ns of elapsed time. -/
abbrev latencyPeriod : Nat := 10000000000
/-- R188: the completion limit of a deferral slot, 10 s, in ns of elapsed time. -/
abbrev completionLimit : Nat := 10000000000
/-- R133: half the marker window, 2 us, in ns. -/
abbrev markerHalfWindow : Nat := 2000
/-- R132: the baud rate of a message line. -/
abbrev baud : Nat := 115200
/-- R180: 10 byte times of idle line and then a start byte, in bit times (a byte time is ten bits, R132). -/
abbrev startByteBits : Nat := 110
/-- R180: the bytes of a time message. -/
abbrev messageBytes : Nat := 8
/-- R144: a first setting that moves local time by more than this many ns is a time step. -/
abbrev stepThreshold : Nat := 1000000
/-- R58: the largest measured delay a tracker records, in us. -/
abbrev delayMax : Nat := 60000000

end Sys2Proof.Config
end

