-- ==== Sys2Proof/Syntax.lean ====
section
/-! DEFINITION. The commands: one constructor per row of spec/opcode_table.json. An operand `gap` is the oscillator time in
nanoseconds that passes before the event (log 1); the time-driven rows carry none, since they name their own moment. -/

namespace Sys2Proof

/-- The four line links L0-L3. -/
abbrev LineId := Fin 4
/-- The two center links (00, 0.5). -/
inductive CenterId where
  | c0 | c1
  deriving DecidableEq, Repr
/-- One of the six links (R166). -/
inductive LinkId where
  | line   (l : LineId)
  | center (c : CenterId)
  deriving DecidableEq, Repr
/-- The two reference inputs (07). -/
inductive InputId where
  | a | b
  deriving DecidableEq, Repr
/-- A station number 0-1,023 (03). -/
abbrev StationNo := Fin 1024
/-- A stream number S0-S7 (05). -/
abbrev StreamNo := Fin 8
/-- One of the four deferral slots (R188). -/
abbrev SlotNo := Fin 4

/-- A management request as the agent holds it (R181, Table 9-5): its arrival link and the source link address of its
frame, the fields of its header, and the payload bytes that the frame delivered after the header. -/
structure Request where
  link          : CenterId
  source        : Nat
  tag           : Nat
  kind          : Nat
  wait          : Nat
  target        : Nat
  payloadLength : Nat
  delivered     : List Byte
  deriving DecidableEq, Repr

/-- A byte that follows another on the message line of a reference input (R132, R180): the oscillator nanoseconds from the
arrival of the byte before it to its own, its value, and whether it came with a framing fault. -/
structure LineByte where
  gap   : Nat
  value : Byte
  fault : Bool
  deriving DecidableEq, Repr

/-- One or more bytes of a message line: the first, which arrives at the command's own moment, and those that follow. -/
structure LineBytes where
  value : Byte
  fault : Bool
  rest  : List LineByte
  deriving DecidableEq, Repr

/-- The commands of the block, one per row of the opcode table, in its order. -/
inductive Instr where
  | powerOn (gap : Nat)
  | resetPinAsserted (gap : Nat)
  | linkUp (gap : Nat) (link : LinkId)
  | linkDown (gap : Nat) (link : LinkId)
  | lineFrameReceived (gap : Nat) (line : LineId) (bytes : List Byte)
  | centerFrameReceived (gap : Nat) (center : CenterId) (bytes : List Byte)
  | reportIntake (gap : Nat)
  | marker (gap : Nat) (input : InputId)
  | timeMessage (gap : Nat) (input : InputId) (bytes : LineBytes)
  | windowEnd (input : InputId)
  | acquisitionTimerExpiry (station : StationNo)
  | silenceTimerExpiry (station : StationNo)
  | latencyPeriodEnd
  | holdoverTimerExpiry
  | completionLimitExpiry (slot : SlotNo)
  | deadlineExpiry (instant : GridTime) (stream : StreamNo)
  | schedulePoint (stream : StreamNo)
  | frameTransmissionComplete (gap : Nat) (center : CenterId)
  | setFragmentComplete (gap : Nat) (center : CenterId)
  | identify (gap : Nat) (request : Request)
  | readGlobal (gap : Nat) (request : Request)
  | writeGlobal (gap : Nat) (request : Request)
  | readStation (gap : Nat) (request : Request)
  | writeStation (gap : Nat) (request : Request)
  | exchangeStation (gap : Nat) (request : Request)
  | enableStation (gap : Nat) (request : Request)
  | disableStation (gap : Nat) (request : Request)
  | admitStation (gap : Nat) (request : Request)
  | acceptShape (gap : Nat) (request : Request)
  | readCounters (gap : Nat) (request : Request)
  | clearConditions (gap : Nat) (request : Request)
  | readStream (gap : Nat) (request : Request)
  | writeStream (gap : Nat) (request : Request)
  | startStream (gap : Nat) (request : Request)
  | stopStreamDrain (gap : Nat) (request : Request)
  | stopStreamCut (gap : Nat) (request : Request)
  | readPlan (gap : Nat) (request : Request)
  | writePlan (gap : Nat) (request : Request)
  | readTimeline (gap : Nat) (request : Request)
  | readTimebase (gap : Nat) (request : Request)
  | writeTimebase (gap : Nat) (request : Request)
  | readPort (gap : Nat) (request : Request)
  | snapshot (gap : Nat) (request : Request)
  | flush (gap : Nat) (request : Request)
  | resetWarm (gap : Nat) (request : Request)
  | resetCold (gap : Nat) (request : Request)
  | messageCutShort (gap : Nat) (input : InputId)
  | badRequestKind (gap : Nat) (request : Request)
  | stopStreamBadMode (gap : Nat) (request : Request)
  deriving DecidableEq, Repr

end Sys2Proof
end

