-- ==== Sys2Proof/Machine/State.lean ====
section
/-! DEFINITION. The state of the device as plain data (chapters 1 to 10), its values after power-on, and the two ways a
step could stop. A timer is stopped (none) or holds the elapsed time of its expiry (R10). -/

namespace Sys2Proof.Machine

/-! ## Grid time and rates -/

/-- "Grid time 0" (R1). -/
def gridZero : GridTime := ⟨0, 0⟩

/-- The ten rate codes of Table 1-1, in code order 1 to 10 (R4). -/
inductive RateCode where
  | r10 | r12 | r15 | r20 | r25 | r30 | r50 | r60 | r100 | r120
  deriving DecidableEq, Repr

/-! ## Stations (chapter 3) -/

/-- The eight station states, in the order of Table 3-3. -/
inductive StationState where
  | disabled | awaiting | acquiring | held | admitted | silent | shapePending | shapeHeld
  deriving DecidableEq, Repr

/-- Where a station goes if its old shape reappears (Table 3-2). -/
inductive ReturnState where
  | acquiring | held | admitted
  deriving DecidableEq, Repr

/-- The causes of station transitions, in the order of their first appearance in Table 3-4. -/
inductive StationCause where
  | enable | disable | exchange | firstReport | acquired | acquireFailed | admission | silence | resumed | reacquire
  | shapeChange | shapeConfirmed | shapeAdopted | shapeReverted | accept
  deriving DecidableEq, Repr

/-- Shape code, phasor count and analog count (section 2.5). -/
structure Shape where
  code    : Nat
  phasors : Nat
  analogs : Nat
  deriving DecidableEq, Repr

/-- The five station conditions, in the order of Table 8-1. -/
inductive Condition where
  | late | offGrid | short | silent | suspectTime
  deriving DecidableEq, Repr

/-- One value per station condition. -/
structure PerCondition (α : Type) where
  late        : α
  offGrid     : α
  short       : α
  silent      : α
  suspectTime : α
  deriving DecidableEq, Repr

/-- The sensitivity of a condition (R154). -/
inductive Sensitivity where
  | edge | level
  deriving DecidableEq, Repr

/-- The three station counters (R158). -/
inductive CounterId where
  | late | missing | reject
  deriving DecidableEq, Repr

/-- One number per station counter. -/
structure PerCounter where
  late    : Nat
  missing : Nat
  reject  : Nat
  deriving DecidableEq, Repr

/-- A station's condition latch (R151): its state, and the serial of its pending notice if that is still queued. -/
structure Latch where
  set     : Bool
  pending : Option Nat
  deriving DecidableEq, Repr

/-- The acquisition limit (Table 3-1). -/
inductive AcqLimit where
  | s30 | s60 | off
  deriving DecidableEq, Repr

/-- Table 3-1. -/
structure StationConfig where
  enable     : Bool
  code       : Nat
  shape      : Shape
  rate       : RateCode
  snapTol    : Nat
  quality    : Nat
  acquire    : Nat
  acqLimit   : AcqLimit
  silence    : Nat
  hold       : Bool
  shapeAuto  : Bool
  reacquire  : Bool
  enables    : PerCondition Bool
  sens       : PerCondition Sensitivity
  thresholds : PerCounter
  deriving DecidableEq, Repr

/-- Table 3-2. -/
structure StationRun where
  state         : StationState
  returnState   : Option ReturnState
  pendingShape  : Option Shape
  confirmations : Nat
  goodCount     : Nat
  lastFresh     : Option GridTime
  acqTimer      : Option Nat
  silenceTimer  : Option Nat
  curMax        : Nat
  prevMax       : Nat
  suspect       : Bool
  counters      : PerCounter
  latches       : PerCondition Latch
  deferrals     : List SlotNo
  deriving DecidableEq, Repr

/-- A station descriptor (R36, R37). -/
structure Station where
  config : StationConfig
  run    : StationRun
  deriving DecidableEq, Repr

/-- The reset values of Table 3-1 (R36, R64). -/
def StationConfig.reset : StationConfig where
  enable := false
  code := 0
  shape := ⟨0, 0, 0⟩
  rate := .r50
  snapTol := 20
  quality := 7
  acquire := 8
  acqLimit := .s30
  silence := 2
  hold := false
  shapeAuto := false
  reacquire := false
  enables := ⟨true, true, true, true, true⟩
  sens := ⟨.edge, .edge, .edge, .edge, .edge⟩
  thresholds := ⟨0, 0, 0⟩

/-- A latch that is CLEAR with no pending notice (R151). -/
def Latch.clear : Latch := ⟨false, none⟩

/-- The "Cleared value" column of Table 3-2, with the state that the clearing request or reset gives (R37). -/
def StationRun.cleared (state : StationState) : StationRun where
  state := state
  returnState := none
  pendingShape := none
  confirmations := 0
  goodCount := 0
  lastFresh := none
  acqTimer := none
  silenceTimer := none
  curMax := 0
  prevMax := 0
  suspect := false
  counters := ⟨0, 0, 0⟩
  latches := ⟨.clear, .clear, .clear, .clear, .clear⟩
  deferrals := []

/-- A descriptor after power-on (R64). -/
def Station.reset : Station := ⟨.reset, .cleared .disabled⟩

/-! ## Reports and instant records (chapters 2 and 4) -/

/-- What a held report slot holds beside its station number (R31). The carried counts are the lengths of the two lists. -/
structure Report where
  suspect   : Bool
  status    : BitVec 16
  frequency : Word32
  rocof     : Word32
  phasors   : List (Word32 × Word32)
  analogs   : List Word32
  deriving DecidableEq, Repr

/-- What made a record (R67). -/
inductive CreationCause where
  | schedule | arrival
  deriving DecidableEq, Repr

/-- The close causes, in the order of Table 4-2 and Table 9-4. -/
inductive CloseCause where
  | complete | deadline | forced | cut | stepped | flushed
  deriving DecidableEq, Repr

/-- The condition that made a window READY (section 5.5). -/
inductive ReadyCause where
  | complete | deadline
  deriving DecidableEq, Repr

/-- The window states of Table 4-2; READY keeps the condition that made it so, CLOSED its close cause. -/
inductive WindowState where
  | notUsed
  | opened
  | ready  (why : ReadyCause)
  | closed (why : CloseCause)
  deriving DecidableEq, Repr

/-- Table 4-2. The awaited set is a strictly rising list. -/
structure Window where
  state    : WindowState
  awaited  : List StationNo
  deadline : Option GridTime
  late     : Nat
  deriving DecidableEq, Repr

/-- A NOT_USED window (Table 4-2). -/
def Window.notUsed : Window := ⟨.notUsed, [], none, 0⟩

/-- Table 4-1. The arrival map is a list with strictly rising station numbers; each entry stands for one held report slot
and carries that slot's report (log 9). -/
structure Record where
  instant  : GridTime
  cause    : CreationCause
  arrivals : List (StationNo × Report)
  windows  : Vector Window 8
  deriving DecidableEq, Repr

/-! ## Plans, sets and streams (chapters 5 and 6) -/

/-- Table 6-1. -/
inductive Selector where
  | phasor (i : Fin 32)
  | frequency
  | rocof
  | analog (i : Fin 8)
  | status
  | unused
  deriving DecidableEq, Repr

/-- A plan entry (R114). -/
structure PlanEntry where
  station  : StationNo
  selector : Selector
  deriving DecidableEq, Repr

/-- The empty entry: selector NONE and station number 0 (R114). -/
def PlanEntry.empty : PlanEntry := ⟨0, .unused⟩

/-- The cell states, in the order of Table 6-3 and Table 9-4. -/
inductive CellState where
  | present | suspect | short | absentStation | notDue | missing
  deriving DecidableEq, Repr

/-- A cell: its state and its value, the pair first and second (R115). -/
structure Cell where
  state  : CellState
  first  : Word32
  second : Word32
  deriving DecidableEq, Repr

/-- The set flags (R125, R126). -/
structure SetFlags where
  complete       : Bool
  timeHoldover   : Bool
  timeFree       : Bool
  discontinuity  : Bool
  suspectPresent : Bool
  deriving DecidableEq, Repr

/-- Table 6-2. The stream number is that of the Set Queue that holds the set. -/
structure AlignedSet where
  sequence : Nat
  instant  : GridTime
  cause    : CloseCause
  flags    : SetFlags
  cells    : List Cell
  deriving DecidableEq, Repr

/-- Table 5-1. -/
structure StreamConfig where
  rate            : RateCode
  link            : CenterId
  destination     : Nat
  priority        : Nat
  planBase        : Nat
  planLength      : Nat
  adaptive        : Bool
  fixedWait       : Nat
  floorWait       : Nat
  ceilingWait     : Nat
  margin          : Nat
  closeOnComplete : Bool
  deriving DecidableEq, Repr

/-- Stream states (Table 5-2). -/
inductive StreamState where
  | stopped | running | draining
  deriving DecidableEq, Repr

/-- The causes of stream transitions, coded as section 9.9 states. -/
inductive StreamCause where
  | start | drain | drained | cut | flushed | stepped
  deriving DecidableEq, Repr

/-- Table 5-2. -/
structure StreamRun where
  state         : StreamState
  floor         : GridTime
  mark          : GridTime
  nextSeq       : Nat
  discontinuity : Bool
  built         : Nat
  sent          : Nat
  discarded     : Nat
  forced        : Nat
  queue         : List AlignedSet
  pendingStop   : Option SlotNo
  deriving DecidableEq, Repr

/-- A stream context (R86, R87). -/
structure Stream where
  config : StreamConfig
  run    : StreamRun
  deriving DecidableEq, Repr

/-- The reset values of Table 5-1. -/
def StreamConfig.reset : StreamConfig where
  rate := .r10
  link := .c0
  destination := 0
  priority := 0
  planBase := 0
  planLength := 1
  adaptive := false
  fixedWait := 100
  floorWait := 20
  ceilingWait := 2000
  margin := 10
  closeOnComplete := true

/-- The reset values of Table 5-2. -/
def StreamRun.reset : StreamRun where
  state := .stopped
  floor := gridZero
  mark := gridZero
  nextSeq := 0
  discontinuity := false
  built := 0
  sent := 0
  discarded := 0
  forced := 0
  queue := []
  pendingStop := none

/-- A stream context after power-on (R87). -/
def Stream.reset : Stream := ⟨.reset, .reset⟩

/-! ## Timebase (chapter 7) -/

/-- The qualification of an input (Table 7-1). -/
inductive InputQual where
  | absent | qualifying | qualified
  deriving DecidableEq, Repr

/-- A latest message: announced second and quality (R132). -/
structure TimeMessage where
  second : Nat
  locked : Bool
  deriving DecidableEq, Repr

/-- A time message being assembled: its bytes so far, start byte first, and whether one of them came with a framing fault
(R132, R180). -/
structure Assembly where
  bytes : List Byte
  fault : Bool
  deriving DecidableEq, Repr

/-- Table 7-1, and the message being assembled, if any (R150, R180). -/
structure RefInput where
  qual          : InputQual
  goodSeconds   : Nat
  lastMarker    : Option Nat
  lastSecond    : Option Nat
  missed        : Nat
  message       : Option TimeMessage
  glitches      : Nat
  messageErrors : Nat
  assembly      : Option Assembly
  deriving DecidableEq, Repr

/-- The Timebase state together with its locked input (Table 7-2; section 7.2). -/
inductive TimebaseMode where
  | free
  | locked (input : InputId)
  | holdover
  deriving DecidableEq, Repr

/-- The causes of Timebase transitions, in the order of their first appearance in Table 7-3. -/
inductive TimebaseCause where
  | qualified | switchover | lost | revert | holdoverExpired
  deriving DecidableEq, Repr

/-- The causes of input transitions (R148). -/
inductive InputCause where
  | firstMarker | qualified | badSecond | loss
  deriving DecidableEq, Repr

/-- Table 7-2, with the two inputs. -/
structure Timebase where
  mode          : TimebaseMode
  firstPending  : Bool
  holdoverTimer : Option Nat
  timeKnown     : Bool
  preferred     : InputId
  revert        : Bool
  holdoverLimit : Nat
  localTime     : GridTime
  inputA        : RefInput
  inputB        : RefInput
  deriving DecidableEq, Repr

/-- The reset values of Table 7-1. -/
def RefInput.reset : RefInput where
  qual := .absent
  goodSeconds := 0
  lastMarker := none
  lastSecond := none
  missed := 0
  message := none
  glitches := 0
  messageErrors := 0
  assembly := none

/-- The power-on values of Table 7-2 (R150). -/
def Timebase.reset : Timebase where
  mode := .free
  firstPending := false
  holdoverTimer := none
  timeKnown := false
  preferred := .a
  revert := true
  holdoverLimit := 300
  localTime := gridZero
  inputA := .reset
  inputB := .reset

/-! ## Notices (chapter 8) -/

/-- Why a CONDITION notice was pushed (Table 8-4). -/
inductive ConditionOrigin where
  | edge | clear
  deriving DecidableEq, Repr

/-- Why a set was discarded (Table 8-4). -/
inductive DiscardCause where
  | overrun | link
  deriving DecidableEq, Repr

/-- The subject of a SNAPSHOT (R165). -/
inductive SnapSubject where
  | station (n : StationNo)
  | stream (k : StreamNo)
  | timebase
  deriving DecidableEq, Repr

/-- The ten notice kinds of Table 8-4, in its order, with what each carries. -/
inductive NoticeBody where
  | stationState (n : StationNo) (old new : StationState) (cause : StationCause)
  | condition (n : StationNo) (c : Condition) (sens : Sensitivity) (origin : ConditionOrigin)
  | counter (n : StationNo) (c : CounterId) (value : Nat)
  | streamState (k : StreamNo) (old new : StreamState) (cause : StreamCause)
  | setDiscarded (k : StreamNo) (cause : DiscardCause) (sequence : Nat)
  | timebaseState (old new : TimebaseMode) (cause : TimebaseCause)
  | inputState (i : InputId) (old new : InputQual) (cause : InputCause)
  | timeStep (ms : Int)
  | unknownCode (l : LineId) (code : Nat)
  | snapshot (subject : SnapSubject) (tag : Nat) (extension : List Byte)
  deriving DecidableEq, Repr

/-- A notice in the queue: its serial (the model's own name for it, log 10), the local time of its push, its content. -/
structure Notice where
  serial : Nat
  time   : GridTime
  body   : NoticeBody
  deriving DecidableEq, Repr

/-- The Notice Queue (R160), and the serial of the next notice (log 10). -/
structure NoticeQueue where
  queue    : List Notice
  overflow : Bool
  serial   : Nat
  deriving DecidableEq, Repr

/-! ## Links (chapter 9) and management (chapter 10) -/

/-- A transport frame in a receive queue: its bytes and its arrival local time (R168). -/
structure QueuedFrame where
  bytes   : List Byte
  arrival : GridTime
  deriving DecidableEq, Repr

/-- A line link: its state (R166), counts (R176), receive queue (R168) and UNKNOWN_CODE latch (R151). -/
structure LineLink where
  up            : Bool
  received      : Nat
  checkFailures : Nat
  queueDrops    : Nat
  queue         : List QueuedFrame
  latchSet      : Bool
  latchPending  : Option Nat
  latchCode     : Option Nat
  deriving DecidableEq, Repr

/-- The answer results, in the order of Table 9-5. -/
inductive Result where
  | ok | failed | badRequest | badTarget | outOfBounds | refusedState | refusedRunning | codeInUse | busy | noTime
  | queueFull | timedOut | aborted
  deriving DecidableEq, Repr

/-- An answer (R182): whom it goes to, the request's tag, kind and target, the result and the payload. -/
structure Answer where
  destination : Nat
  tag         : Nat
  kind        : Nat
  target      : Nat
  result      : Result
  payload     : List Byte
  deriving DecidableEq, Repr

/-- What a center link has in transmission: a whole frame, or a fragment of the head set of a stream's Set Queue with the
destination read at the set's first fragment (R171-R174). The bytes are those on the wire. -/
inductive Transmission where
  | answer (bytes : List Byte)
  | passThrough (bytes : List Byte)
  | notices (bytes : List Byte)
  | fragment (stream : StreamNo) (index : Nat) (destination : Nat) (bytes : List Byte)
  deriving DecidableEq, Repr

/-- A center link: its state (R166), counts (R176), answer queue and transmission (R171). -/
structure CenterLink where
  up            : Bool
  received      : Nat
  checkFailures : Nat
  drops         : Nat
  answers       : List Answer
  tx            : Option Transmission
  deriving DecidableEq, Repr

/-- The global configuration (Table 10-3); mask0 and mask1 are the bits of the management link mask. -/
structure Globals where
  transportType     : Nat
  futureTolerance   : Nat
  noticeLink        : CenterId
  noticeDestination : Nat
  throughLink       : CenterId
  mask0             : Bool
  mask1             : Bool
  deriving DecidableEq, Repr

/-- What a deferral slot waits for (Table 10-4). -/
inductive DeferredOp where
  | stream (k : StreamNo)
  | station (n : StationNo)
  deriving DecidableEq, Repr

/-- A held deferral slot (Table 10-4); `limit` is the elapsed time at which its completion limit expires. -/
structure HeldAnswer where
  tag    : Nat
  kind   : Nat
  target : Nat
  link   : CenterId
  source : Nat
  op     : DeferredOp
  limit  : Nat
  deriving DecidableEq, Repr

/-- A line link after power-on, DOWN until its link layer reports UP (R176, R178; log 5). -/
def LineLink.reset : LineLink := ⟨false, 0, 0, 0, [], false, none, none⟩

/-- A center link after power-on, DOWN until its link layer reports UP (R178; log 5). -/
def CenterLink.reset : CenterLink := ⟨false, 0, 0, 0, [], none⟩

/-- The reset values of Table 10-3. -/
def Globals.reset : Globals where
  transportType := 0xB7A2
  futureTolerance := 5
  noticeLink := .c0
  noticeDestination := 0
  throughLink := .c1
  mask0 := true
  mask1 := true

/-- The whole device. Each field is named in INVENTORY.md with the rule that gives it; `quietA` and `quietB` are the elapsed
times since which the message lines are idle, by which a start byte is known (R180; log 19). -/
structure State where
  pending       : List Instr
  elapsed       : Nat
  quietA        : Nat
  quietB        : Nat
  timebase      : Timebase
  globals       : Globals
  unitNumber    : Nat
  stations      : Vector Station 1024
  codeMap       : List (Nat × StationNo)
  latencyEnd    : Nat
  streams       : Vector Stream 8
  plan          : Vector PlanEntry 4096
  timeline      : List Record
  freeSlots     : Nat
  forcedCloses  : Nat
  storeDiscards : Nat
  notices       : NoticeQueue
  lines         : Vector LineLink 4
  center0       : CenterLink
  center1       : CenterLink
  passThrough   : List (List Byte)
  pointer       : LineId
  inputQueue    : List Request
  slots         : Vector (Option HeldAnswer) 4
  deriving DecidableEq, Repr

/-- The device right after power-on (R15, R64, R84, R87, R114, R131, R150, R163, R178, R192). The link states and the unit
number are the model's choice (logs 5 and 6). -/
def State.reset : State where
  pending := []
  elapsed := 0
  quietA := 0
  quietB := 0
  timebase := .reset
  globals := .reset
  unitNumber := 1
  stations := Vector.replicate 1024 .reset
  codeMap := []
  latencyEnd := Config.latencyPeriod
  streams := Vector.replicate 8 .reset
  plan := Vector.replicate 4096 .empty
  timeline := []
  freeSlots := Config.slotCapacity
  forcedCloses := 0
  storeDiscards := 0
  notices := ⟨[], false, 0⟩
  lines := Vector.replicate 4 .reset
  center0 := .reset
  center1 := .reset
  passThrough := []
  pointer := 3
  inputQueue := []
  slots := Vector.replicate 4 none

/-- The reasons a step can stop with a fault. There is none: the manual names no machine fault, and every command answers a
next state. Safe: a claim that no command faults is the manual's own. -/
inductive Fault where
  deriving DecidableEq, Repr

/-- The reasons a step can be refused. -/
inductive Refusal where
  /-- Raised by a dispatch arm whose command has no meaning yet; safe, since nothing is claimed of that command. -/
  | notModelled (mnemonic : String)
  deriving DecidableEq, Repr

end Sys2Proof.Machine
end

