-- ==== Sys2Proof/Machine/GridTime.lean ====
section
/-! DEFINITION. Chapter 1: grid-time arithmetic, rates, instants, snapping and the due rule. -/

namespace Sys2Proof.Machine

/-- The largest grid time (R1). -/
def gridMax : GridTime := ⟨Config.lastSecond, Config.second - 1⟩

/-- `a` is earlier than `b` (R1). -/
def earlier (a b : GridTime) : Bool := a.sec < b.sec || (a.sec == b.sec && a.ns < b.ns)

/-- `a` is at or before `b` (R1). -/
def atOrBefore (a b : GridTime) : Bool := !earlier b a

/-- The later of two grid times. -/
def laterOf (a b : GridTime) : GridTime := if earlier a b then b else a

/-- A grid time lies in the ranges of R1. -/
def gridValid (t : GridTime) : Bool := t.sec ≤ Config.lastSecond && t.ns < Config.second

/-- Nanoseconds since grid time 0. -/
def gridNs (t : GridTime) : Nat := Config.second * t.sec + t.ns

/-- The sum of a grid time and a duration in ns, carried into the seconds and saturated at the largest grid time (R2). -/
def addNs (t : GridTime) (d : Nat) : GridTime :=
  if gridNs t + d ≤ gridNs gridMax then ⟨(gridNs t + d) / Config.second, (gridNs t + d) % Config.second⟩ else gridMax

/-- The signed difference `a` minus `b` in nanoseconds (R2). -/
def diffNs (a b : GridTime) : Int := (gridNs a : Int) - (gridNs b : Int)

/-- The rate of a rate code (Table 1-1). -/
def RateCode.rate : RateCode → Nat
  | .r10 => 10 | .r12 => 12 | .r15 => 15 | .r20 => 20 | .r25 => 25
  | .r30 => 30 | .r50 => 50 | .r60 => 60 | .r100 => 100 | .r120 => 120

/-- The number of a rate code (Table 1-1). -/
def RateCode.code : RateCode → Nat
  | .r10 => 1 | .r12 => 2 | .r15 => 3 | .r20 => 4 | .r25 => 5
  | .r30 => 6 | .r50 => 7 | .r60 => 8 | .r100 => 9 | .r120 => 10

/-- The rate code of a number; numbers outside 1-10 are not valid (R4). -/
def RateCode.ofCode : Nat → Option RateCode
  | 1 => some .r10 | 2 => some .r12 | 3 => some .r15 | 4 => some .r20 | 5 => some .r25
  | 6 => some .r30 | 7 => some .r50 | 8 => some .r60 | 9 => some .r100 | 10 => some .r120
  | _ => none

/-- The nominal nanoseconds of instant k of rate r (R5). -/
def nominalNs (r k : Nat) : Nat := Config.second * k / r

/-- The instant index of a grid time for a rate, if it is an instant of it (R5). -/
def instantIndex (rate : RateCode) (t : GridTime) : Option Nat :=
  (List.range rate.rate).find? (fun k => nominalNs rate.rate k == t.ns)

/-- A grid time is an instant of a rate (R5). -/
def isInstant (rate : RateCode) (t : GridTime) : Bool := (instantIndex rate t).isSome

/-- The next instant of a rate later than a grid time (R6). -/
def nextInstant (rate : RateCode) (t : GridTime) : Option GridTime :=
  match (List.range rate.rate).find? (fun k => t.ns < nominalNs rate.rate k) with
  | some k => some ⟨t.sec, nominalNs rate.rate k⟩
  | none => if t.sec < Config.lastSecond then some ⟨t.sec + 1, 0⟩ else none

/-- The candidate index of a tag's nanoseconds, rounded to the nearest, exact halves up (R7). -/
def snapIndex (r ns : Nat) : Nat := (2 * (ns * r) + Config.second) / (2 * Config.second)

/-- The distance of a tag from its candidate nominal time (R7). -/
def snapDistance (r ns : Nat) : Nat :=
  let cand := nominalNs r (snapIndex r ns)
  if ns ≤ cand then cand - ns else ns - cand

/-- The snapped instant time of a tag, or none when it is OFF_GRID; the tolerance is in microseconds (R8). -/
def snap (rate : RateCode) (tolerance : Nat) (tag : GridTime) : Option GridTime :=
  let k := snapIndex rate.rate tag.ns
  if snapDistance rate.rate tag.ns ≤ 1000 * tolerance then
    if k < rate.rate then some ⟨tag.sec, nominalNs rate.rate k⟩
    else if tag.sec < Config.lastSecond then some ⟨tag.sec + 1, 0⟩
    else none
  else none

/-- A station of one rate is due at an instant of a stream of another (R9). -/
def isDue (station stream : RateCode) (t : GridTime) : Bool :=
  match instantIndex stream t with
  | some j => (j * station.rate) % stream.rate == 0
  | none => false

/-- The measured delay of a report in microseconds (R12). -/
def measuredDelay (arrival instant : GridTime) : Nat := ((diffNs arrival instant) / 1000).toNat

/-- Milliseconds, rounded up, of a time in nanoseconds (R39). -/
def ceilMs (ns : Nat) : Nat := (999999 + ns) / 1000000

end Sys2Proof.Machine
end

