-- ==== Sys2Proof/Machine/Ops.lean ====
section
/-! DEFINITION. The named operations over the state: one accessor and one update for each indexed part, the clock, timers,
the Code Map, the Notice Queue and the answer queues. Every meaning is built from these. -/

namespace Sys2Proof.Machine

/-- A 16-bit count that rises by 1 and saturates (00, 0.5). -/
def satInc (c : Nat) : Nat := if c < Config.counterMax then c + 1 else c

/-- Applies a function to each element of a vector. -/
def mapVec {α β : Type} {n : Nat} (f : α → β) (v : Vector α n) : Vector β n :=
  ⟨⟨v.toList.map f⟩, by simp⟩

/-- The eight streams, S0 first. -/
def allStreams : List StreamNo := [0, 1, 2, 3, 4, 5, 6, 7]

/-- The four deferral slots. -/
def allSlots : List SlotNo := [0, 1, 2, 3]

namespace State

/-- The descriptor of station n. -/
def station (s : State) (n : StationNo) : Station := s.stations[n]
/-- Replaces the descriptor of station n. -/
def setStation (s : State) (n : StationNo) (x : Station) : State := { s with stations := s.stations.set n x }
/-- Replaces the run state of station n. -/
def setRun (s : State) (n : StationNo) (r : StationRun) : State := s.setStation n { s.station n with run := r }
/-- Replaces the configuration of station n. -/
def setConfig (s : State) (n : StationNo) (c : StationConfig) : State := s.setStation n { s.station n with config := c }

/-- The context of stream k. -/
def stream (s : State) (k : StreamNo) : Stream := s.streams[k]
/-- Replaces the context of stream k. -/
def setStream (s : State) (k : StreamNo) (x : Stream) : State := { s with streams := s.streams.set k x }
/-- Replaces the run fields of stream k. -/
def setStreamRun (s : State) (k : StreamNo) (r : StreamRun) : State := s.setStream k { s.stream k with run := r }

/-- Line link l. -/
def line (s : State) (l : LineId) : LineLink := s.lines[l]
/-- Replaces line link l. -/
def setLine (s : State) (l : LineId) (x : LineLink) : State := { s with lines := s.lines.set l x }

/-- A center link. -/
def center (s : State) : CenterId → CenterLink
  | .c0 => s.center0
  | .c1 => s.center1
/-- Replaces a center link. -/
def setCenter (s : State) (c : CenterId) (x : CenterLink) : State :=
  match c with
  | .c0 => { s with center0 := x }
  | .c1 => { s with center1 := x }

/-- A deferral slot. -/
def slot (s : State) (d : SlotNo) : Option HeldAnswer := s.slots[d]
/-- Replaces a deferral slot. -/
def setSlot (s : State) (d : SlotNo) (x : Option HeldAnswer) : State := { s with slots := s.slots.set d x }

/-- The elapsed time since which the message line of an input is idle: the arrival of its last byte (R180). -/
def quiet (s : State) : InputId → Nat
  | .a => s.quietA
  | .b => s.quietB
/-- A byte on the message line of an input ends the line's idle time; a new one begins (R180). -/
def setQuiet (s : State) (i : InputId) (t : Nat) : State :=
  match i with
  | .a => { s with quietA := t }
  | .b => { s with quietB := t }

/-- Local time (R3). -/
def localTime (s : State) : GridTime := s.timebase.localTime

/-- The clock runs on by `ns` nanoseconds of the oscillator: elapsed time counts them, and local time advances with it and
stops at the largest grid time (R3, R10; log 1). -/
def runClock (s : State) (ns : Nat) : State :=
  { s with elapsed := s.elapsed + ns
           timebase := { s.timebase with localTime := addNs s.timebase.localTime ns } }

/-- The clock runs on until the elapsed time is at least `t` (a timer's expiry; log 1). -/
def runClockTo (s : State) (t : Nat) : State := s.runClock (t - s.elapsed)

/-- The clock runs on until local time is at least `t` (a deadline or a schedule point; log 1). -/
def runClockToLocal (s : State) (t : GridTime) : State := s.runClock (gridNs t - gridNs s.localTime)

end State

/-! ## The Code Map (R40) -/

/-- The station number under a code (R19). -/
def codeLookup (m : List (Nat × StationNo)) (code : Nat) : Option StationNo :=
  (m.find? (fun e => e.1 == code)).map (·.2)

/-- Enters a code; the map is kept with strictly rising codes. -/
def codeInsert (code : Nat) (n : StationNo) : List (Nat × StationNo) → List (Nat × StationNo)
  | [] => [(code, n)]
  | e :: m =>
    if code < e.1 then (code, n) :: e :: m
    else if code = e.1 then (code, n) :: m
    else e :: codeInsert code n m

/-- Removes the entry that maps a code to a station number. -/
def codeRemove (code : Nat) (n : StationNo) (m : List (Nat × StationNo)) : List (Nat × StationNo) :=
  m.filter (fun e => !(e.1 == code && e.2 == n))

/-- The map of the codes of the enabled descriptors (R65). -/
def codesOfEnabled (v : Vector Station 1024) : List (Nat × StationNo) :=
  (List.finRange 1024).foldl (fun m n => if v[n].config.enable then codeInsert v[n].config.code n m else m) []

/-! ## Sorted sets of station numbers (awaited sets) -/

/-- Adds a station number to a strictly rising list. -/
def setInsert (n : StationNo) : List StationNo → List StationNo
  | [] => [n]
  | m :: l => if n < m then n :: m :: l else if n = m then m :: l else m :: setInsert n l

/-- Removes a station number. -/
def setRemove (n : StationNo) (l : List StationNo) : List StationNo := l.filter (fun m => !(m == n))

/-! ## Notices (R160) -/

/-- Pushes a notice: it joins the tail with the local time of the push, or is dropped at a full queue, which sets the
overflow flag (R160, R164). -/
def pushNotice (b : NoticeBody) (s : State) : State :=
  if s.notices.queue.length < Config.noticeCapacity then
    { s with notices := { s.notices with
        queue := s.notices.queue ++ [⟨s.notices.serial, s.localTime, b⟩], serial := s.notices.serial + 1 } }
  else { s with notices := { s.notices with overflow := true } }

/-- The serial that a push would give, if the queue can take a notice: the latch's pending notice (R153). -/
def nextPending (s : State) : Option Nat :=
  if s.notices.queue.length < Config.noticeCapacity then some s.notices.serial else none

/-! ## Answers (R171, R182) -/

/-- Places an answer on the answer queue of a link; a full queue drops it. -/
def placeAnswer (c : CenterId) (a : Answer) (s : State) : State :=
  if (s.center c).answers.length < Config.answerCapacity then
    s.setCenter c { s.center c with answers := (s.center c).answers ++ [a] }
  else s

/-- Answers a request (R182). -/
def answerRequest (r : Request) (result : Result) (payload : List Byte) (s : State) : State :=
  placeAnswer r.link ⟨r.source, r.tag, r.kind, r.target, result, payload⟩ s

/-- Refuses a request with an empty payload; nothing else changes (R182, R184). -/
def refuse (r : Request) (result : Result) (s : State) : State := answerRequest r result [] s

/-! ## Deferral slots (R188-R190) -/

/-- A free deferral slot, the lowest one (any serves, R188; log 15). -/
def freeSlot (s : State) : Option SlotNo := allSlots.find? (fun d => (s.slot d).isNone)

/-- Takes a slot for a request: it holds the request's fields, and its completion limit starts (R188). -/
def holdAnswer (d : SlotNo) (r : Request) (op : DeferredOp) (s : State) : State :=
  s.setSlot d (some ⟨r.tag, r.kind, r.target, r.link, r.source, op, Config.completionLimit + s.elapsed⟩)

/-- Removes a slot from the pending stop or the deferrals of the operation it waits for (R189, R190). -/
def forgetSlot (d : SlotNo) (op : DeferredOp) (s : State) : State :=
  match op with
  | .stream k => s.setStreamRun k { (s.stream k).run with pendingStop := none }
  | .station n => s.setRun n { (s.station n).run with deferrals := (s.station n).run.deferrals.filter (fun e => !(e == d)) }

/-- Ends a held slot: its answer is placed on the slot's link, the slot is freed, and the stream's pending stop or the
station's deferral goes (R189, R190). -/
def endSlot (d : SlotNo) (result : Result) (payload : List Byte) (s : State) : State :=
  match s.slot d with
  | none => s
  | some h =>
    forgetSlot d h.op ((placeAnswer h.link ⟨h.source, h.tag, h.kind, h.target, result, payload⟩ s).setSlot d none)

/-- Completes every deferral of a station, in the order their slots were taken (R61). -/
def completeDeferrals (n : StationNo) (result : Result) (s : State) : State :=
  (s.station n).run.deferrals.foldl (fun s d => endSlot d result [] s) s

/-! ## Instant records (R66, R69, R75) -/

/-- The record of an instant time, if the Timeline holds one (R66). -/
def recordAt (s : State) (t : GridTime) : Option Record := s.timeline.find? (fun r => r.instant == t)

/-- Puts a record at its place in instant order (R66). -/
def insertRecord (r : Record) : List Record → List Record
  | [] => [r]
  | q :: l => if earlier r.instant q.instant then r :: q :: l else q :: insertRecord r l

/-- Changes the record of an instant time. -/
def modifyRecord (t : GridTime) (f : Record → Record) (s : State) : State :=
  { s with timeline := s.timeline.map (fun r => if r.instant == t then f r else r) }

/-- A window is OPEN or READY. -/
def Window.waiting (w : Window) : Bool :=
  match w.state with
  | .opened => true
  | .ready _ => true
  | .notUsed => false
  | .closed _ => false

/-- A record has a window that is OPEN or READY (R75). -/
def Record.waiting (r : Record) : Bool := allStreams.any (fun k => r.windows[k].waiting)

/-- Changes one window of a record. -/
def Record.setWindow (r : Record) (k : StreamNo) (w : Window) : Record := { r with windows := r.windows.set k w }

/-- The report of a station in an arrival map (R69). -/
def arrivalOf (m : List (StationNo × Report)) (n : StationNo) : Option Report :=
  (m.find? (fun e => e.1 == n)).map (·.2)

/-- Adds a report to an arrival map, kept with strictly rising station numbers. -/
def arrivalInsert (n : StationNo) (p : Report) : List (StationNo × Report) → List (StationNo × Report)
  | [] => [(n, p)]
  | e :: m => if n < e.1 then (n, p) :: e :: m else if n = e.1 then (n, p) :: m else e :: arrivalInsert n p m

/-- A record without an OPEN or READY window retires: it leaves the Timeline and its slots return to the free list (R75). -/
def retireIfDone (t : GridTime) (s : State) : State :=
  match recordAt s t with
  | none => s
  | some r =>
    if r.waiting then s
    else { s with timeline := s.timeline.filter (fun q => !(q.instant == t))
                  freeSlots := s.freeSlots + r.arrivals.length }

/-- A stream has a window that is OPEN or READY. -/
def hasWaiting (s : State) (k : StreamNo) : Bool := s.timeline.any (fun r => r.windows[k].waiting)

end Sys2Proof.Machine
end

