-- ==== Sys2Proof/Machine/Flags.lean ====
section
/-! DEFINITION. Condition latches and station counters (sections 8.1 and 8.2): rising edges, departures of pending notices,
CLEAR_CONDITIONS and counter thresholds. -/

namespace Sys2Proof.Machine

/-- One condition's member. -/
def PerCondition.get {α : Type} (p : PerCondition α) : Condition → α
  | .late => p.late
  | .offGrid => p.offGrid
  | .short => p.short
  | .silent => p.silent
  | .suspectTime => p.suspectTime

/-- Replaces one condition's member. -/
def PerCondition.put {α : Type} (p : PerCondition α) (c : Condition) (x : α) : PerCondition α :=
  match c with
  | .late => { p with late := x }
  | .offGrid => { p with offGrid := x }
  | .short => { p with short := x }
  | .silent => { p with silent := x }
  | .suspectTime => { p with suspectTime := x }

/-- One counter's value. -/
def PerCounter.get (p : PerCounter) : CounterId → Nat
  | .late => p.late
  | .missing => p.missing
  | .reject => p.reject

/-- Replaces one counter's value. -/
def PerCounter.put (p : PerCounter) (c : CounterId) (x : Nat) : PerCounter :=
  match c with
  | .late => { p with late := x }
  | .missing => { p with missing := x }
  | .reject => { p with reject := x }

/-- The latch of a station's condition. -/
def latchOf (s : State) (n : StationNo) (c : Condition) : Latch := (s.station n).run.latches.get c

/-- Replaces the latch of a station's condition. -/
def putLatch (n : StationNo) (c : Condition) (l : Latch) (s : State) : State :=
  s.setRun n { (s.station n).run with latches := (s.station n).run.latches.put c l }

/-- Sets a CLEAR latch: it becomes SET and pushes its CONDITION notice, which becomes its pending notice unless the full
queue drops it (R153). -/
def setLatch (n : StationNo) (c : Condition) (origin : ConditionOrigin) (s : State) : State :=
  pushNotice (.condition n c ((s.station n).config.sens.get c) origin) (putLatch n c ⟨true, nextPending s⟩ s)

/-- A rising edge of a station condition (R153): ignored when the condition is not enabled, absorbed by a SET latch. -/
def risingEdge (n : StationNo) (c : Condition) (s : State) : State :=
  if !(s.station n).config.enables.get c then s
  else if (latchOf s n c).set then s
  else setLatch n c .edge s

/-- A rising edge of a line link's UNKNOWN_CODE condition, which has no enable (R153). -/
def unknownCodeEdge (l : LineId) (code : Nat) (s : State) : State :=
  if (s.line l).latchSet then s
  else pushNotice (.unknownCode l code)
    (s.setLine l { s.line l with latchSet := true, latchPending := nextPending s, latchCode := some code })

/-- The cause of a persistent condition as the Condition Unit reads it (R152); event conditions have none. -/
def persistentCause (x : Station) : Condition → Bool
  | .silent => x.run.state == .silent
  | .suspectTime => x.run.suspect && !(x.run.state == .disabled)
  | .late => false
  | .offGrid => false
  | .short => false

/-- CLEAR_CONDITIONS on one latch of a station (R155). -/
def clearLatch (n : StationNo) (c : Condition) (s : State) : State :=
  let s := putLatch n c .clear s
  if (s.station n).config.enables.get c && persistentCause (s.station n) c then setLatch n c .clear s else s

/-- CLEAR_CONDITIONS on the UNKNOWN_CODE latch of a line link (R155). -/
def clearUnknownCode (l : LineId) (s : State) : State :=
  s.setLine l { s.line l with latchSet := false, latchPending := none, latchCode := none }

/-- A notice leaves the queue into a notice frame: if it is a latch's pending notice, that becomes absent and an EDGE latch
becomes CLEAR (R154). -/
def departNotice (m : Notice) (s : State) : State :=
  match m.body with
  | .condition n c _ _ =>
    if (latchOf s n c).pending = some m.serial then
      match (s.station n).config.sens.get c with
      | .edge => putLatch n c .clear s
      | .level => putLatch n c ⟨(latchOf s n c).set, none⟩ s
    else s
  | .unknownCode l _ =>
    if (s.line l).latchPending = some m.serial then clearUnknownCode l s else s
  | .stationState _ _ _ _ => s
  | .counter _ _ _ => s
  | .streamState _ _ _ _ => s
  | .setDiscarded _ _ _ => s
  | .timebaseState _ _ _ => s
  | .inputState _ _ _ _ => s
  | .timeStep _ => s
  | .snapshot _ _ _ => s

/-- A station counter rises by 1, or stays when it stands at its highest value; an increment that leaves it equal to a
non-zero threshold pushes a COUNTER notice (R158). -/
def countStation (n : StationNo) (c : CounterId) (s : State) : State :=
  let x := (s.station n).run.counters.get c
  if x < Config.counterMax then
    let s' := s.setRun n { (s.station n).run with counters := (s.station n).run.counters.put c (x + 1) }
    if (s.station n).config.thresholds.get c = x + 1 then pushNotice (.counter n c (x + 1)) s' else s'
  else s

end Sys2Proof.Machine
end

