-- ==== Sys2Proof/Machine/Layout.lean ====
section
/-! DEFINITION. Byte layouts (section 9.9): numbers on the wire, the frame check, and the frames the device originates. -/

namespace Sys2Proof.Machine

/-! ## Numbers, most significant byte first (section 9.9) -/

/-- One byte. -/
def be8 (n : Nat) : List Byte := [BitVec.ofNat 8 n]
/-- Two bytes. -/
def be16 (n : Nat) : List Byte := [BitVec.ofNat 8 (n / 256), BitVec.ofNat 8 n]
/-- Three bytes. -/
def be24 (n : Nat) : List Byte := BitVec.ofNat 8 (n / 65536) :: be16 n
/-- Four bytes. -/
def be32 (n : Nat) : List Byte := be16 (n / 65536) ++ be16 n
/-- A grid time, seconds then nanoseconds (R183). -/
def beGrid (t : GridTime) : List Byte := be32 t.sec ++ be32 t.ns
/-- A signed 32-bit value, in two's complement. -/
def beWord (w : Word32) : List Byte := be32 w.toNat
/-- A set-or-cleared field (R183). -/
def beFlag (b : Bool) : List Byte := if b then [1] else [0]
/-- `k` bytes of all ones: an absent value (R183). -/
def allOnes (k : Nat) : List Byte := List.replicate k 0xFF
/-- A grid time or its absent value (R183). -/
def beGridOr : Option GridTime → List Byte
  | some t => beGrid t
  | none => allOnes 8
/-- A remaining timer time in ms, rounded up, or the stopped value 0xFFFFFFFF (R39, R183). -/
def beTimer (now : Nat) : Option Nat → List Byte
  | some t => be32 (ceilMs (t - now))
  | none => allOnes 4

/-- The byte at an offset. -/
def byteAt (l : List Byte) (i : Nat) : Nat := (l.getD i 0).toNat
/-- The two-byte number at an offset. -/
def numAt16 (l : List Byte) (i : Nat) : Nat := 256 * byteAt l i + byteAt l (i + 1)
/-- The four-byte number at an offset. -/
def numAt32 (l : List Byte) (i : Nat) : Nat := 65536 * numAt16 l i + numAt16 l (i + 2)
/-- The signed 32-bit value at an offset. -/
def wordAt (l : List Byte) (i : Nat) : Word32 := BitVec.ofNat 32 (numAt32 l i)

/-! ## The frame check (R179) -/

/-- One bit of the check register: each byte enters least significant bit first, so the register shifts right under the
reflected generator. -/
def crcBit (c : BitVec 32) : BitVec 32 := if c.getLsbD 0 then (c >>> 1) ^^^ 0xEDB88320#32 else c >>> 1

/-- One byte of the check register. -/
def crcByte (c : BitVec 32) (b : Byte) : BitVec 32 :=
  crcBit (crcBit (crcBit (crcBit (crcBit (crcBit (crcBit (crcBit (c ^^^ b.setWidth 32))))))))

/-- The check value over bytes: register preset to all ones, result complemented (R179). -/
def frameCheck (bytes : List Byte) : BitVec 32 := ~~~(bytes.foldl crcByte 0xFFFFFFFF#32)

/-- A frame passes its check: its length lies in 14 to 2,048 bytes and its last four bytes are the check (R167). -/
def frameOk (bytes : List Byte) : Bool :=
  14 ≤ bytes.length && bytes.length ≤ 2048 &&
    (bytes.drop (bytes.length - 4) == be32 (frameCheck (bytes.take (bytes.length - 4))).toNat)

/-- The source link address of a frame (R179). -/
def frameSource (bytes : List Byte) : Nat := numAt16 bytes 2
/-- The link type of a frame (R179). -/
def frameType (bytes : List Byte) : Nat := numAt16 bytes 4
/-- The content of a frame, between its link header and its check (R179). -/
def frameContent (bytes : List Byte) : List Byte := (bytes.drop 6).take (bytes.length - 10)

/-- Appends the frame check. -/
def withCheck (bytes : List Byte) : List Byte := bytes ++ be32 (frameCheck bytes).toNat

/-- A frame the device originates: source link address 0, the transport type as it stands, a transport header of the given
kind (Table 9-2) and its content (R179, R182). -/
def ownFrame (s : State) (destination kind : Nat) (content : List Byte) : List Byte :=
  withCheck (be16 destination ++ be16 0 ++ be16 s.globals.transportType ++ be16 kind ++ be16 content.length ++ content)

/-! ## Codes (sections 9.9 and 10.2) -/

/-- Position in Table 3-3. -/
def StationState.code : StationState → Nat
  | .disabled => 0 | .awaiting => 1 | .acquiring => 2 | .held => 3
  | .admitted => 4 | .silent => 5 | .shapePending => 6 | .shapeHeld => 7

/-- A return state as a station state. -/
def ReturnState.state : ReturnState → StationState
  | .acquiring => .acquiring | .held => .held | .admitted => .admitted

/-- A return state by Table 3-3, or the absent value (R183). -/
def returnCode : Option ReturnState → Nat
  | some r => r.state.code
  | none => 255

/-- Order of first appearance in Table 3-4 (section 9.9). -/
def StationCause.code : StationCause → Nat
  | .enable => 0 | .disable => 1 | .exchange => 2 | .firstReport => 3 | .acquired => 4 | .acquireFailed => 5
  | .admission => 6 | .silence => 7 | .resumed => 8 | .reacquire => 9 | .shapeChange => 10 | .shapeConfirmed => 11
  | .shapeAdopted => 12 | .shapeReverted => 13 | .accept => 14

/-- Position in Table 8-1. -/
def Condition.code : Condition → Nat
  | .late => 0 | .offGrid => 1 | .short => 2 | .silent => 3 | .suspectTime => 4

/-- EDGE, LEVEL (R183). -/
def Sensitivity.code : Sensitivity → Nat
  | .edge => 0 | .level => 1

/-- Section 9.9. -/
def CounterId.code : CounterId → Nat
  | .late => 0 | .missing => 1 | .reject => 2

/-- STOPPED, RUNNING, DRAINING (R183). -/
def StreamState.code : StreamState → Nat
  | .stopped => 0 | .running => 1 | .draining => 2

/-- Section 9.9. -/
def StreamCause.code : StreamCause → Nat
  | .start => 0 | .drain => 1 | .drained => 2 | .cut => 3 | .flushed => 4 | .stepped => 5

/-- The stop detail of a cause of entry to STOPPED (R95, R189). -/
def StreamCause.detail : StreamCause → Nat
  | .drained => 0 | .cut => 1 | .flushed => 2 | .stepped => 3 | .start => 0 | .drain => 0

/-- FREE, LOCKED(A), LOCKED(B), HOLDOVER (section 9.9). -/
def TimebaseMode.code : TimebaseMode → Nat
  | .free => 0 | .locked .a => 1 | .locked .b => 2 | .holdover => 3

/-- Order of first appearance in Table 7-3 (section 9.9). -/
def TimebaseCause.code : TimebaseCause → Nat
  | .qualified => 0 | .switchover => 1 | .lost => 2 | .revert => 3 | .holdoverExpired => 4

/-- Section 9.9. -/
def InputQual.code : InputQual → Nat
  | .absent => 0 | .qualifying => 1 | .qualified => 2

/-- Section 9.9. -/
def InputCause.code : InputCause → Nat
  | .firstMarker => 0 | .qualified => 1 | .badSecond => 2 | .loss => 3

/-- Input A is 0 and B is 1 (Table 9-7). -/
def inputCode : InputId → Nat
  | .a => 0 | .b => 1

/-- C0 is 0 and C1 is 1 (Table 10-3). -/
def centerCode : CenterId → Nat
  | .c0 => 0 | .c1 => 1

/-- Table 9-4. -/
def CloseCause.code : CloseCause → Nat
  | .complete => 0 | .deadline => 1 | .forced => 2 | .cut => 3 | .stepped => 4 | .flushed => 5

/-- Table 9-4. -/
def CellState.code : CellState → Nat
  | .present => 0 | .suspect => 1 | .short => 2 | .absentStation => 3 | .notDue => 4 | .missing => 5

/-- Table 9-5. -/
def Result.code : Result → Nat
  | .ok => 0 | .failed => 1 | .badRequest => 2 | .badTarget => 3 | .outOfBounds => 4 | .refusedState => 5
  | .refusedRunning => 6 | .codeInUse => 7 | .busy => 8 | .noTime => 9 | .queueFull => 10 | .timedOut => 11 | .aborted => 12

/-! ## Answers, set fragments and notices (Tables 9-4 to 9-8) -/

/-- The content of an answer frame after the transport header (Table 9-5). -/
def answerContent (unit : Nat) (a : Answer) : List Byte :=
  be32 unit ++ be16 a.tag ++ be8 a.kind ++ be8 a.result.code ++ be16 a.target ++ be16 a.payload.length ++ a.payload

/-- The flags byte of a set fragment (Table 9-4). -/
def SetFlags.byte (f : SetFlags) : Nat :=
  (if f.complete then 1 else 0) + (if f.timeHoldover then 2 else 0) + (if f.timeFree then 4 else 0) +
    (if f.discontinuity then 8 else 0) + (if f.suspectPresent then 16 else 0)

/-- A cell on the wire (Table 9-4). -/
def cellBytes (c : Cell) : List Byte := be8 c.state.code ++ [0, 0, 0] ++ beWord c.first ++ beWord c.second

/-- The number of fragments of a set (R173). -/
def fragmentCount (a : AlignedSet) : Nat := (a.cells.length + (Config.cellsPerFragment - 1)) / Config.cellsPerFragment

/-- The cells of fragment i (R173). -/
def fragmentCells (a : AlignedSet) (i : Nat) : List Cell :=
  (a.cells.drop (Config.cellsPerFragment * i)).take Config.cellsPerFragment

/-- The content of a set fragment after the transport header (Table 9-4). -/
def fragmentContent (k : StreamNo) (a : AlignedSet) (i : Nat) : List Byte :=
  be8 k.val ++ be8 a.cause.code ++ be8 a.flags.byte ++ be8 i ++ be8 (fragmentCount a) ++
    be8 (fragmentCells a i).length ++ be16 a.cells.length ++ be16 (Config.cellsPerFragment * i) ++ be32 a.sequence ++
    beGrid a.instant ++ [0, 0] ++ (fragmentCells a i).flatMap cellBytes

/-- The number of a notice kind in Table 8-4, and its subject kind and number (Table 9-7). -/
def NoticeBody.head : NoticeBody → Nat × Nat × Nat
  | .stationState n _ _ _ => (1, 1, n.val)
  | .condition n _ _ _ => (2, 1, n.val)
  | .counter n _ _ => (3, 1, n.val)
  | .streamState k _ _ _ => (4, 3, k.val)
  | .setDiscarded k _ _ => (5, 3, k.val)
  | .timebaseState _ _ _ => (6, 4, 0)
  | .inputState i _ _ _ => (7, 5, inputCode i)
  | .timeStep _ => (8, 4, 0)
  | .unknownCode l _ => (9, 2, l.val)
  | .snapshot (.station n) _ _ => (10, 1, n.val)
  | .snapshot (.stream k) _ _ => (10, 3, k.val)
  | .snapshot .timebase _ _ => (10, 4, 0)

/-- The four detail bytes of a notice (Table 9-8). -/
def NoticeBody.detail : NoticeBody → List Byte
  | .stationState _ old new c => be8 old.code ++ be8 new.code ++ be8 c.code ++ [0]
  | .condition _ c sens o =>
    be8 c.code ++ be8 sens.code ++ be8 (match o with | .edge => 0 | .clear => 1) ++ [0]
  | .counter _ c v => be8 c.code ++ [0] ++ be16 v
  | .streamState _ old new c => be8 old.code ++ be8 new.code ++ be8 c.code ++ [0]
  | .setDiscarded _ c q => be8 (match c with | .overrun => 0 | .link => 1) ++ be24 (q % 16777216)
  | .timebaseState old new c => be8 old.code ++ be8 new.code ++ be8 c.code ++ [0]
  | .inputState _ old new c => be8 old.code ++ be8 new.code ++ be8 c.code ++ [0]
  | .timeStep ms => be32 (BitVec.ofInt 32 ms).toNat
  | .unknownCode _ code => [0, 0] ++ be16 code
  | .snapshot _ tag _ => [0, 0] ++ be16 tag

/-- The extension, present in SNAPSHOT notices only (R164). -/
def NoticeBody.extension : NoticeBody → List Byte
  | .snapshot _ _ ext => ext
  | .stationState _ _ _ _ => []
  | .condition _ _ _ _ => []
  | .counter _ _ _ => []
  | .streamState _ _ _ _ => []
  | .setDiscarded _ _ _ => []
  | .timebaseState _ _ _ => []
  | .inputState _ _ _ _ => []
  | .timeStep _ => []
  | .unknownCode _ _ => []

/-- A notice record (Table 9-7). -/
def noticeBytes (m : Notice) : List Byte :=
  be8 m.body.head.1 ++ be8 m.body.head.2.1 ++ be16 m.body.head.2.2 ++ beGrid m.time ++ m.body.detail ++ m.body.extension

/-- The content of a notice frame after the transport header (Table 9-6). -/
def noticeContent (l : List Notice) (overflow : Bool) : List Byte :=
  be8 l.length ++ beFlag overflow ++ [0, 0] ++ l.flatMap noticeBytes

end Sys2Proof.Machine
end

