-- ==== Sys2Proof/Machine/Operands.lean ====
section
/-! DEFINITION. Operand forms: which request each request row takes, and how the bytes of a report, of a request header and
of each payload are read, with the range checks of their tables (R13, R14, R17, R18, R181, R183, R184). -/

namespace Sys2Proof.Machine

/-! ## The request rows -/

/-- R184 check 1: the kind lies in 1-26 and the WAIT flag is 0 or 1. -/
def requestKindOk (r : Request) : Bool := 1 ≤ r.kind && r.kind ≤ 26 && r.wait ≤ 1

/-- The request is of a kind, with a legal WAIT flag: the row of that kind takes it. -/
def requestIs (kind : Nat) (r : Request) : Bool := r.kind == kind && r.wait ≤ 1

/-- The mode that a STOP_STREAM carries, if it carries one (Table 10-2). -/
def stopMode (r : Request) : Option Nat := r.delivered.head?.map BitVec.toNat

/-- STOP_STREAM with mode DRAIN. -/
def isStopDrain (r : Request) : Bool := requestIs 16 r && stopMode r == some 0
/-- STOP_STREAM with mode CUT. -/
def isStopCut (r : Request) : Bool := requestIs 16 r && stopMode r == some 1
/-- STOP_STREAM with any other mode, or with none (log 26). -/
def isStopBadMode (r : Request) : Bool := requestIs 16 r && !(stopMode r == some 0) && !(stopMode r == some 1)

/-! ## Station reports (section 2.1, Table 9-3) -/

/-- The fields of a well-formed report (Table 2-1), with the values it carries. -/
structure ParsedReport where
  code        : Nat
  shape       : Shape
  tag         : GridTime
  locked      : Bool
  uncertainty : Nat
  status      : BitVec 16
  frequency   : Word32
  rocof       : Word32
  phasors     : List (Word32 × Word32)
  analogs     : List Word32
  deriving DecidableEq, Repr

/-- The carried counts of a value region of `size` bytes under declared counts P and A, or none when the region ends inside
a value or holds more than declared (R14, R18). -/
def carriedCounts (size P A : Nat) : Option (Nat × Nat) :=
  if size < 8 * P then
    if size % 8 = 0 then some (size / 8, 0) else none
  else if (size - 8 * P) % 4 = 0 ∧ (size - 8 * P) / 4 ≤ A then some (P, (size - 8 * P) / 4)
  else none

/-- The form check and the fields of a report, none when it is MALFORMED (R17, R18). -/
def parseReport (bytes : List Byte) : Option ParsedReport :=
  let content := frameContent bytes
  let body := content.drop 4
  let length := numAt16 content 2
  let P := byteAt body 4
  let A := byteAt body 5
  if numAt16 content 0 ≠ 1 ∨ body.length < length ∨ length < 28 ∨ Config.second ≤ numAt32 body 12 then none
  else if 32 < P ∨ 8 < A then none
  else (carriedCounts (length - 28) P A).map fun c =>
    { code := numAt16 body 0
      shape := ⟨numAt16 body 2, P, A⟩
      tag := ⟨numAt32 body 8, numAt32 body 12⟩
      locked := byteAt body 6 == 0
      uncertainty := byteAt body 7 % 16
      status := BitVec.ofNat 16 (numAt16 body 24)
      frequency := wordAt body 16
      rocof := wordAt body 20
      phasors := (List.range c.1).map fun i => (wordAt body (28 + 8 * i), wordAt body (32 + 8 * i))
      analogs := (List.range c.2).map fun j => wordAt body (28 + 8 * c.1 + 4 * j) }

/-- A report that carries fewer values than it declares, in either count (R14). -/
def ParsedReport.short (p : ParsedReport) : Bool :=
  p.phasors.length < p.shape.phasors || p.analogs.length < p.shape.analogs

/-- The suspect mark (R23). -/
def ParsedReport.suspect (p : ParsedReport) (quality : Nat) : Bool := !p.locked || quality < p.uncertainty

/-- What the report slot receives (R31). -/
def ParsedReport.stored (p : ParsedReport) (quality : Nat) : Report :=
  ⟨p.suspect quality, p.status, p.frequency, p.rocof, p.phasors, p.analogs⟩

/-! ## Requests (Table 9-5) -/

/-- The unit number that a request frame addresses. -/
def requestUnit (content : List Byte) : Nat := numAt32 content 4

/-- The request of a frame's content (Table 9-5), with its arrival link and source link address. -/
def parseRequest (c : CenterId) (bytes : List Byte) : Request :=
  let content := frameContent bytes
  { link := c
    source := frameSource bytes
    tag := numAt16 content 8
    kind := byteAt content 10
    wait := byteAt content 11
    target := numAt16 content 12
    payloadLength := numAt16 content 14
    delivered := content.drop 16 }

/-! ## Payload fields (R183) -/

/-- A set-or-cleared field. -/
def flagAt (p : List Byte) (i : Nat) : Option Bool :=
  match byteAt p i with
  | 0 => some false
  | 1 => some true
  | _ => none

/-- C0 or C1. -/
def centerAt (p : List Byte) (i : Nat) : Option CenterId :=
  match byteAt p i with
  | 0 => some .c0
  | 1 => some .c1
  | _ => none

/-- EDGE or LEVEL. -/
def sensAt (p : List Byte) (i : Nat) : Option Sensitivity :=
  match byteAt p i with
  | 0 => some .edge
  | 1 => some .level
  | _ => none

/-- 30 s, 60 s or OFF. -/
def acqLimitAt (p : List Byte) (i : Nat) : Option AcqLimit :=
  match byteAt p i with
  | 0 => some .s30
  | 1 => some .s60
  | 2 => some .off
  | _ => none

/-- One flag per condition, in the order of Table 8-1. -/
def enablesAt (p : List Byte) (i : Nat) : Option (PerCondition Bool) := do
  let a ← flagAt p i
  let b ← flagAt p (i + 1)
  let c ← flagAt p (i + 2)
  let d ← flagAt p (i + 3)
  let e ← flagAt p (i + 4)
  return ⟨a, b, c, d, e⟩

/-- One sensitivity per condition, in the order of Table 8-1. -/
def sensitivitiesAt (p : List Byte) (i : Nat) : Option (PerCondition Sensitivity) := do
  let a ← sensAt p i
  let b ← sensAt p (i + 1)
  let c ← sensAt p (i + 2)
  let d ← sensAt p (i + 3)
  let e ← sensAt p (i + 4)
  return ⟨a, b, c, d, e⟩

/-- The ranges of Table 3-1 that a byte width does not give. -/
def StationConfig.inRange (c : StationConfig) : Bool :=
  c.code ≤ 65534 && c.shape.phasors ≤ 32 && c.shape.analogs ≤ 8 && c.snapTol ≤ 500 && c.quality ≤ 15 &&
    1 ≤ c.acquire && c.acquire ≤ 32 && 1 ≤ c.silence && c.silence ≤ 60

/-- The fields of Table 3-1 after enable, 32 bytes; none when one is out of range (R38). -/
def stationConfigOf (enable : Bool) (p : List Byte) : Option StationConfig := do
  let rate ← RateCode.ofCode (byteAt p 6)
  let acqLimit ← acqLimitAt p 11
  let hold ← flagAt p 13
  let shapeAuto ← flagAt p 14
  let reacquire ← flagAt p 15
  let enables ← enablesAt p 16
  let sens ← sensitivitiesAt p 21
  let c : StationConfig :=
    { enable := enable
      code := numAt16 p 0
      shape := ⟨numAt16 p 2, byteAt p 4, byteAt p 5⟩
      rate := rate
      snapTol := numAt16 p 7
      quality := byteAt p 9
      acquire := byteAt p 10
      acqLimit := acqLimit
      silence := byteAt p 12
      hold := hold
      shapeAuto := shapeAuto
      reacquire := reacquire
      enables := enables
      sens := sens
      thresholds := ⟨numAt16 p 26, numAt16 p 28, numAt16 p 30⟩ }
  if c.inRange then some c else none

/-- The ranges of Table 5-1 that a byte width does not give. -/
def StreamConfig.inRange (c : StreamConfig) : Bool :=
  c.priority ≤ 7 && c.planBase ≤ 4095 && 1 ≤ c.planLength && c.planBase + c.planLength ≤ 4096 &&
    1 ≤ c.fixedWait && c.fixedWait ≤ 10000 && 1 ≤ c.floorWait && c.floorWait ≤ 10000 &&
    c.floorWait ≤ c.ceilingWait && c.ceilingWait ≤ 10000 && c.margin ≤ 1000

/-- The fields of Table 5-1, 19 bytes; none when one is out of range (R88). -/
def streamConfigOf (p : List Byte) : Option StreamConfig := do
  let rate ← RateCode.ofCode (byteAt p 0)
  let link ← centerAt p 1
  let adaptive ← flagAt p 9
  let closeOnComplete ← flagAt p 18
  let c : StreamConfig :=
    { rate := rate
      link := link
      destination := numAt16 p 2
      priority := byteAt p 4
      planBase := numAt16 p 5
      planLength := numAt16 p 7
      adaptive := adaptive
      fixedWait := numAt16 p 10
      floorWait := numAt16 p 12
      ceilingWait := numAt16 p 14
      margin := numAt16 p 16
      closeOnComplete := closeOnComplete }
  if c.inRange then some c else none

/-- The six globals of Table 10-3, 9 bytes; none when one is out of range (R186). -/
def globalsOf (p : List Byte) : Option Globals := do
  let noticeLink ← centerAt p 4
  let throughLink ← centerAt p 7
  if 1000 < numAt16 p 2 ∨ byteAt p 8 = 0 ∨ 3 < byteAt p 8 then none
  else
    some { transportType := numAt16 p 0
           futureTolerance := numAt16 p 2
           noticeLink := noticeLink
           noticeDestination := numAt16 p 5
           throughLink := throughLink
           mask0 := byteAt p 8 % 2 == 1
           mask1 := byteAt p 8 / 2 == 1 }

/-- A selector code and index (R183, Table 6-1); the index of a selector without one is not looked at (log 17). -/
def selectorOf (code index : Nat) : Option Selector :=
  match code with
  | 0 => if h : index < 32 then some (.phasor ⟨index, h⟩) else none
  | 1 => some .frequency
  | 2 => some .rocof
  | 3 => if h : index < 8 then some (.analog ⟨index, h⟩) else none
  | 4 => some .status
  | 5 => some .unused
  | _ => none

/-- A plan entry as WRITE_PLAN stores it: an entry with selector NONE is the empty entry (R118, R119). -/
def planEntryOf (p : List Byte) (i : Nat) : Option PlanEntry :=
  if h : numAt16 p i < 1024 then
    match selectorOf (byteAt p (i + 2)) (byteAt p (i + 3)) with
    | none => none
    | some .unused => some .empty
    | some sel => some ⟨⟨numAt16 p i, h⟩, sel⟩
  else none

/-- The entries of a WRITE_PLAN payload, none when one of them fails its check (R118). -/
def planEntriesOf (p : List Byte) : Nat → Nat → Option (List PlanEntry)
  | _, 0 => some []
  | at_, n + 1 => do
    let e ← planEntryOf p at_
    let l ← planEntriesOf p (at_ + 4) n
    return e :: l

/-- A grid time in a payload, none when its nanoseconds are out of range (R184). -/
def gridAt (p : List Byte) (i : Nat) : Option GridTime :=
  if numAt32 p (i + 4) < Config.second then some ⟨numAt32 p i, numAt32 p (i + 4)⟩ else none

/-- Preferred input, revert and holdover limit, 4 bytes (R149). -/
def timebaseConfigOf (p : List Byte) : Option (InputId × Bool × Nat) := do
  let revert ← flagAt p 1
  if 10 ≤ numAt16 p 2 ∧ numAt16 p 2 ≤ 3600 then
    match byteAt p 0 with
    | 0 => some (.a, revert, numAt16 p 2)
    | 1 => some (.b, revert, numAt16 p 2)
    | _ => none
  else none

/-! ## Payload encodings of the read requests (R183) -/

/-- One byte per condition, in the order of Table 8-1. -/
def bePer {α : Type} (f : α → List Byte) (p : PerCondition α) : List Byte :=
  f p.late ++ f p.offGrid ++ f p.short ++ f p.silent ++ f p.suspectTime

/-- Two bytes per counter. -/
def beCounters (p : PerCounter) : List Byte := be16 p.late ++ be16 p.missing ++ be16 p.reject

/-- A shape, member by member. -/
def beShape (x : Shape) : List Byte := be16 x.code ++ be8 x.phasors ++ be8 x.analogs

/-- Table 3-1 in order. -/
def stationConfigBytes (c : StationConfig) : List Byte :=
  beFlag c.enable ++ be16 c.code ++ beShape c.shape ++ be8 c.rate.code ++ be16 c.snapTol ++ be8 c.quality ++
    be8 c.acquire ++ be8 (match c.acqLimit with | .s30 => 0 | .s60 => 1 | .off => 2) ++ be8 c.silence ++
    beFlag c.hold ++ beFlag c.shapeAuto ++ beFlag c.reacquire ++ bePer beFlag c.enables ++
    bePer (fun x => be8 x.code) c.sens ++ beCounters c.thresholds

/-- The latency estimate: the larger of the two maxima (R58). -/
def StationRun.estimate (r : StationRun) : Nat := max r.curMax r.prevMax

/-- Table 3-2 in order, the timers against the elapsed time `now`, then the latency estimate (R39). -/
def stationRunBytes (now : Nat) (r : StationRun) : List Byte :=
  be8 r.state.code ++ be8 (returnCode r.returnState) ++
    (match r.pendingShape with | some x => be8 1 ++ beShape x | none => be8 0 ++ [0, 0, 0, 0]) ++
    be8 r.confirmations ++ be8 r.goodCount ++ beGridOr r.lastFresh ++ beTimer now r.acqTimer ++
    beTimer now r.silenceTimer ++ be32 r.curMax ++ be32 r.prevMax ++ beFlag r.suspect ++ beCounters r.counters ++
    bePer (fun l => beFlag l.set) r.latches ++ be8 r.deferrals.length ++ be32 r.estimate

/-- Table 5-1 in order. -/
def streamConfigBytes (c : StreamConfig) : List Byte :=
  be8 c.rate.code ++ be8 (centerCode c.link) ++ be16 c.destination ++ be8 c.priority ++ be16 c.planBase ++
    be16 c.planLength ++ beFlag c.adaptive ++ be16 c.fixedWait ++ be16 c.floorWait ++ be16 c.ceilingWait ++
    be16 c.margin ++ beFlag c.closeOnComplete

/-- Table 10-3 in order. -/
def globalsBytes (g : Globals) : List Byte :=
  be16 g.transportType ++ be16 g.futureTolerance ++ be8 (centerCode g.noticeLink) ++ be16 g.noticeDestination ++
    be8 (centerCode g.throughLink) ++ be8 ((if g.mask0 then 1 else 0) + (if g.mask1 then 2 else 0))

/-- A plan entry (R183). -/
def planEntryBytes (e : PlanEntry) : List Byte :=
  be16 e.station.val ++
    match e.selector with
    | .phasor i => be8 0 ++ be8 i.val
    | .frequency => be8 1 ++ be8 0
    | .rocof => be8 2 ++ be8 0
    | .analog i => be8 3 ++ be8 i.val
    | .status => be8 4 ++ be8 0
    | .unused => be8 5 ++ be8 0

end Sys2Proof.Machine
end

