-- ==== Sys2Proof/Machine/Windows.lean ====
section
/-! DEFINITION. The Window Controller, the Set Builder and forced closes (chapters 4, 5 and 6): which streams want an
instant, how a window opens, completes and closes, the set a close builds, the cascade, direct closes. -/

namespace Sys2Proof.Machine

/-! ## Stream classification (R26) -/

/-- The stream wants the instant (R26). -/
def wants (s : State) (k : StreamNo) (t : GridTime) : Bool :=
  (s.stream k).run.state == .running && isInstant (s.stream k).config.rate t && earlier (s.stream k).run.floor t

/-- The stream has passed the instant (R26). -/
def hasPassed (s : State) (k : StreamNo) (t : GridTime) : Bool :=
  ((s.stream k).run.state == .running || (s.stream k).run.state == .draining) &&
    isInstant (s.stream k).config.rate t && atOrBefore t (s.stream k).run.floor

/-- Some stream wants the instant. -/
def anyWants (s : State) (t : GridTime) : Bool := allStreams.any (fun k => wants s k t)
/-- Some stream has passed the instant. -/
def anyPassed (s : State) (t : GridTime) : Bool := allStreams.any (fun k => hasPassed s k t)

/-! ## Floors, and the entry to STOPPED -/

/-- The floor becomes a grid time, and the schedule mark takes it if it is later (R96, R97). -/
def setFloor (k : StreamNo) (t : GridTime) (s : State) : State :=
  s.setStreamRun k { (s.stream k).run with floor := t, mark := laterOf (s.stream k).run.mark t }

/-- Entry to STOPPED: the state, its notice, and the pending stop, which completes OK with the cause as its detail
(R89, R95). -/
def stopStream (k : StreamNo) (cause : StreamCause) (s : State) : State :=
  let r := (s.stream k).run
  let s := pushNotice (.streamState k r.state .stopped cause)
    (s.setStreamRun k { r with state := .stopped, pendingStop := none })
  match r.pendingStop with
  | some d => endSlot d .ok (be8 cause.detail) s
  | none => s

/-- R107 step 7: a DRAINING stream with no OPEN or READY window left becomes STOPPED with cause DRAINED. -/
def drainIfDone (k : StreamNo) (s : State) : State :=
  if (s.stream k).run.state == .draining && !hasWaiting s k then stopStream k .drained s else s

/-! ## Building a set (sections 6.4 and 6.5) -/

/-- The value a report carries for a selector, as the pair of R115, or none (Table 6-1). -/
def carriedValue (p : Report) : Selector → Option (Word32 × Word32)
  | .phasor i => p.phasors[i.val]?
  | .frequency => some (p.frequency, 0)
  | .rocof => some (p.rocof, 0)
  | .analog i => p.analogs[i.val]?.map (fun v => (v, 0))
  | .status => some (p.status.setWidth 32, 0)
  | .unused => none

/-- A station takes part in alignment: it is ADMITTED or SILENT (R122). -/
def contributes (x : StationState) : Bool := x == .admitted || x == .silent

/-- The cell of a plan entry, by the first case of R122 that applies; its value by R123. -/
def cellOf (s : State) (rate : RateCode) (t : GridTime) (arrivals : List (StationNo × Report)) (e : PlanEntry) : Cell :=
  if e.selector = .unused then ⟨.absentStation, 0, 0⟩
  else
    match arrivalOf arrivals e.station with
    | some p =>
      match carriedValue p e.selector with
      | none => ⟨.short, 0, 0⟩
      | some v => ⟨if p.suspect then .suspect else .present, v.1, v.2⟩
    | none =>
      if !contributes (s.station e.station).run.state then ⟨.absentStation, 0, 0⟩
      else if !isDue (s.station e.station).config.rate rate t then ⟨.notDue, 0, 0⟩
      else ⟨.missing, 0, 0⟩

/-- A stream's plan segment, by relative index (R116). -/
def planSegment (s : State) (c : StreamConfig) : List PlanEntry := (s.plan.toList.drop c.planBase).take c.planLength

/-- The set of a stream for a record and its closing window (R121, R125-R127). The DISCONTINUITY flag follows R126 at every
build, also at a time step's own close with a discontinuity pending from an earlier step, where R111 reads otherwise (log 30). -/
def alignedSet (s : State) (k : StreamNo) (r : Record) (w : Window) (cause : CloseCause) : AlignedSet :=
  let x := s.stream k
  let cells := (planSegment s x.config).map (cellOf s x.config.rate r.instant r.arrivals)
  { sequence := x.run.nextSeq
    instant := r.instant
    cause := cause
    flags :=
      { complete := w.awaited.isEmpty
        timeHoldover := s.timebase.mode == .holdover
        timeFree := s.timebase.mode == .free
        discontinuity := x.run.discontinuity
        suspectPresent := cells.any (fun c => c.state == .suspect) }
    cells := cells }

/-- The stream whose set a center link has in transmission, if any. -/
def txStream : Option Transmission → Option StreamNo
  | some (.fragment k _ _ _) => some k
  | some (.answer _) => none
  | some (.passThrough _) => none
  | some (.notices _) => none
  | none => none

/-- The head set of the stream's queue is in transmission (R173). -/
def inTransmission (s : State) (k : StreamNo) : Bool :=
  txStream s.center0.tx == some k || txStream s.center1.tx == some k

/-- A set leaves its queue without being sent: the count and the SET_DISCARDED notice (R129, R175). -/
def discardSet (k : StreamNo) (a : AlignedSet) (cause : DiscardCause) (rest : List AlignedSet) (s : State) : State :=
  pushNotice (.setDiscarded k cause a.sequence)
    (s.setStreamRun k { (s.stream k).run with queue := rest, discarded := satInc (s.stream k).run.discarded })

/-- Room in the Set Queue: a full queue first discards its oldest set that is not in transmission (R129). -/
def makeRoom (k : StreamNo) (s : State) : State :=
  if (s.stream k).run.queue.length < Config.setQueueCapacity then s
  else
    match (s.stream k).run.queue with
    | h :: d :: rest => if inTransmission s k then discardSet k d .overrun (h :: rest) s else discardSet k h .overrun (d :: rest) s
    | [h] => if inTransmission s k then s else discardSet k h .overrun [] s
    | [] => s

/-- Step 2 of R107: the set is built and joins the tail of the Set Queue; the sequence is consumed, the discontinuity mark
is spent, sets built rises (R121, R126, R127, R129). -/
def buildSet (k : StreamNo) (r : Record) (w : Window) (cause : CloseCause) (s : State) : State :=
  let a := alignedSet s k r w cause
  let s := makeRoom k s
  let x := (s.stream k).run
  s.setStreamRun k { x with
    queue := x.queue ++ [a]
    nextSeq := (x.nextSeq + 1) % 4294967296
    discontinuity := false
    built := satInc x.built }

/-! ## Closing (R107, R108) -/

/-- Step 4 of R107: each station still awaited counts the close, in increasing station number (R158). -/
def countMissing (l : List StationNo) (s : State) : State := l.foldl (fun s n => countStation n .missing s) s

/-- A window's close, steps 1 to 4 and 6 of R107. The cascade (step 5) is `settle`; the drain (step 7) is `drainIfDone`. -/
def closeWindow (k : StreamNo) (t : GridTime) (cause : CloseCause) (s : State) : State :=
  match recordAt s t with
  | none => s
  | some r =>
    let w := r.windows[k]
    retireIfDone t (countMissing w.awaited (setFloor k t (buildSet k r w cause
      (modifyRecord t (fun q => q.setWindow k { w with state := .closed cause }) s))))

/-- The stream's window at an instant. -/
def windowAt (s : State) (t : GridTime) (k : StreamNo) : Option Window := (recordAt s t).map (fun r => r.windows[k])

/-- The close cause that a READY window keeps (R106). -/
def ReadyCause.close : ReadyCause → CloseCause
  | .complete => .complete
  | .deadline => .deadline

/-- R106 and R108 along instants, earliest first: READY windows close in turn, the first OPEN one ends the run. -/
def settleFrom (k : StreamNo) : List GridTime → State → State
  | [], s => s
  | t :: ts, s =>
    match windowAt s t k with
    | none => settleFrom k ts s
    | some w =>
      match w.state with
      | .ready why => settleFrom k ts (drainIfDone k (closeWindow k t why.close s))
      | .opened => s
      | .notUsed => settleFrom k ts s
      | .closed _ => settleFrom k ts s

/-- The instants of the records in the Timeline, earliest first. -/
def instants (s : State) : List GridTime := s.timeline.map (·.instant)

/-- Closes every READY window of the stream that no earlier OPEN window holds back (R106, R108). -/
def settle (k : StreamNo) (s : State) : State := settleFrom k (instants s) s

/-- The same for every stream, S0 first (log 13). -/
def settleAll (s : State) : State := allStreams.foldl (fun s k => settle k s) s

/-! ## Direct closes (section 5.6) -/

/-- The stream's window at an instant is OPEN or READY. -/
def waitingAt (s : State) (t : GridTime) (k : StreamNo) : Bool :=
  match windowAt s t k with
  | some w => w.waiting
  | none => false

/-- CUT, FLUSHED and STEPPED: closes every OPEN and READY window of the stream, earliest first, without the drain of R107,
whose place the direct close's own entry to STOPPED takes (R93, R109-R111; log 12). -/
def closeAll (k : StreamNo) (cause : CloseCause) (s : State) : State :=
  (instants s).foldl (fun s t => if waitingAt s t k then closeWindow k t cause s else s) s

/-- A forced close of one window: the close, the stream's forced-close count, its drain, its cascade (R78). -/
def forceWindow (t : GridTime) (s : State) (k : StreamNo) : State :=
  if waitingAt s t k then
    let s := closeWindow k t .forced s
    settle k (drainIfDone k (s.setStreamRun k { (s.stream k).run with forced := satInc (s.stream k).run.forced }))
  else s

/-- The Timeline's forced-close count rises (R81). -/
def countForced (s : State) : State := { s with forcedCloses := satInc s.forcedCloses }

/-- A forced close of the record of an instant, stream by stream; the Timeline's count rises once (R78, R81). -/
def forceClose (t : GridTime) (s : State) : State :=
  countForced (retireIfDone t (allStreams.foldl (forceWindow t) s))

/-! ## Opening (section 5.4) -/

/-- A station is awaited at an opening (R100). -/
def awaitedBy (s : State) (rate : RateCode) (r : Record) (e : PlanEntry) : Bool :=
  !(e.selector == .unused) && (s.station e.station).run.state == .admitted &&
    isDue (s.station e.station).config.rate rate r.instant && (arrivalOf r.arrivals e.station).isNone

/-- The awaited set at an opening (R100). -/
def awaitedSet (s : State) (c : StreamConfig) (r : Record) : List StationNo :=
  (planSegment s c).foldl (fun l e => if awaitedBy s c.rate r e then setInsert e.station l else l) []

/-- The wait in milliseconds (R101, R102). -/
def waitMs (s : State) (c : StreamConfig) (awaited : List StationNo) : Nat :=
  if !c.adaptive then c.fixedWait
  else if awaited.isEmpty then c.floorWait
  else
    let largest := awaited.foldl (fun m n => max m (s.station n).run.estimate) 0
    let w := (999 + (1000 * c.margin + largest)) / 1000
    if w < c.floorWait then c.floorWait else if c.ceilingWait < w then c.ceilingWait else w

/-- A window as it opens: OPEN, or READY at once (R99-R103). -/
def openedWindow (s : State) (k : StreamNo) (r : Record) : Window :=
  let c := (s.stream k).config
  let awaited := awaitedSet s c r
  let deadline := addNs r.instant (1000000 * waitMs s c awaited)
  { state :=
      if awaited.isEmpty && c.closeOnComplete then .ready .complete
      else if atOrBefore deadline s.localTime then .ready .deadline
      else .opened
    awaited := awaited
    deadline := some deadline
    late := 0 }

/-- Changes the eight windows of a record. -/
def Record.mapWindows (r : Record) (f : StreamNo → Window → Window) : Record :=
  { r with windows := #v[f 0 r.windows[0], f 1 r.windows[1], f 2 r.windows[2], f 3 r.windows[3],
                         f 4 r.windows[4], f 5 r.windows[5], f 6 r.windows[6], f 7 r.windows[7]] }

/-- A record as it is created, with its windows set up: a window opens for every stream that wants the instant, every
other is NOT_USED (R72). -/
def newRecord (s : State) (t : GridTime) (cause : CreationCause) : Record :=
  let r : Record := ⟨t, cause, [], Vector.replicate 8 .notUsed⟩
  r.mapWindows (fun k w => if wants s k t then openedWindow s k r else w)

/-- Creates the record of an instant (R72-R74). Windows that are READY at once close when the caller settles. -/
def createRecord (t : GridTime) (cause : CreationCause) (s : State) : State :=
  { s with timeline := insertRecord (newRecord s t cause) s.timeline }

/-! ## Awaited sets shrink (R32, R51, R105) -/

/-- A station leaves a window's awaited set; an OPEN window that this empties completes when its stream closes on complete
(R105). -/
def dropAwaited (closeOnComplete : Bool) (n : StationNo) (w : Window) : Window :=
  { w with
    awaited := setRemove n w.awaited
    state := if w.state = .opened ∧ n ∈ w.awaited ∧ setRemove n w.awaited = [] ∧ closeOnComplete
             then .ready .complete else w.state }

/-- A station that has left ADMITTED leaves every awaited set; windows this completes close in order (R51, R105). -/
def leaveAwaited (n : StationNo) (s : State) : State :=
  settleAll { s with timeline := s.timeline.map (fun r =>
    r.mapWindows (fun k w => dropAwaited (s.stream k).config.closeOnComplete n w)) }

end Sys2Proof.Machine
end

