-- ==== Sys2Proof/Machine/Requests.lean ====
section
/-! DEFINITION. How the Management Agent takes a request and judges it (R182, R184), and how a WAIT flag finds its
deferral slot (R188). Every request handler is built from these. -/

namespace Sys2Proof.Machine

/-- The agent takes a request of a row (R182): the head of the input queue, and nothing else, leaves it and is handled. A
command that names no head, or a head of another row, finds nothing to take (log 4). `row` says that the request is one of
the row's kind. -/
def takeRequest (row : Bool) (r : Request) (handle : State → State) (s : State) : State :=
  if row then
    match s.inputQueue with
    | [] => s
    | q :: rest => if q = r then handle { s with inputQueue := rest } else s
  else s

/-- R184 check 2: the payload has the required length and the frame delivered it; the payload goes on. -/
def withPayload (r : Request) (length : Nat) (act : List Byte → State → State) (s : State) : State :=
  if r.payloadLength = length ∧ length ≤ r.delivered.length then act (r.delivered.take length) s
  else refuse r .badRequest s

/-- R184 check 3 for a station. -/
def withStation (r : Request) (act : StationNo → State → State) (s : State) : State :=
  if h : r.target < 1024 then act ⟨r.target, h⟩ s else refuse r .badTarget s

/-- R184 check 3 for a stream. -/
def withStream (r : Request) (act : StreamNo → State → State) (s : State) : State :=
  if h : r.target < 8 then act ⟨r.target, h⟩ s else refuse r .badTarget s

/-- R184 check 4: a field outside its range is answered BAD_REQUEST. -/
def withValue {α : Type} (r : Request) (x : Option α) (act : α → State → State) (s : State) : State :=
  match x with
  | some v => act v s
  | none => refuse r .badRequest s

/-- R184 check 5: with the WAIT flag set the request needs a free deferral slot; with it cleared it needs none. -/
def withSlot (r : Request) (act : Option SlotNo → State → State) (s : State) : State :=
  if r.wait = 1 then
    match freeSlot s with
    | some d => act (some d) s
    | none => refuse r .busy s
  else act none s

end Sys2Proof.Machine
end

