-- ==== Sys2Proof/Machine/Stations.lean ====
section
/-! DEFINITION. The station state machine (chapter 3): transitions and their notices, timers, good reports, shape changes,
expiries, and the operations of the station requests. -/

namespace Sys2Proof.Machine

/-! ## Timers (R10, R46, R49) -/

/-- The acquisition timer as it starts: the elapsed time of its expiry, or stopped when the limit is OFF (R46). -/
def acqStart (s : State) (n : StationNo) : Option Nat :=
  match (s.station n).config.acqLimit with
  | .s30 => some (30 * Config.second + s.elapsed)
  | .s60 => some (60 * Config.second + s.elapsed)
  | .off => none

/-- The silence timer as it starts (R49). -/
def silenceStart (s : State) (n : StationNo) : Option Nat :=
  some (Config.second * (s.station n).config.silence + s.elapsed)

/-- Restarts the silence timer (R49). -/
def restartSilence (n : StationNo) (s : State) : State :=
  s.setRun n { (s.station n).run with silenceTimer := silenceStart s n }

/-! ## Transitions (R52, R61) -/

/-- How a transition completes the station's deferred requests (R61). -/
def deferralOutcome (new : StationState) (cause : StationCause) : Option Result :=
  if new = .held ∨ new = .admitted then some .ok
  else if cause = .acquireFailed then some .failed
  else if cause = .disable then some .aborted
  else none

/-- A transition: the run state becomes `run` in the new state, the STATION_STATE notice is pushed (R52), and the
station's deferrals complete if the transition is one of R61. -/
def moveStation (n : StationNo) (new : StationState) (cause : StationCause) (run : StationRun) (s : State) : State :=
  let s' := pushNotice (.stationState n (s.station n).run.state new cause) (s.setRun n { run with state := new })
  match deferralOutcome new cause with
  | some result => completeDeferrals n result s'
  | none => s'

/-- The run state on entry to AWAITING by silence or acquisition failure, and what DISABLE_STATION clears (R42, R43). -/
def StationRun.restarted (r : StationRun) : StationRun :=
  { r with returnState := none, pendingShape := none, confirmations := 0, goodCount := 0, lastFresh := none
           acqTimer := none, silenceTimer := none }

/-! ## Acquisition (R43-R46) -/

/-- Acquisition completes when the good count has reached the acquire count: HELD or ADMITTED, the acquisition timer
stopped, the silence timer started (R45). -/
def testAcquired (n : StationNo) (s : State) : State :=
  let x := s.station n
  if x.config.acquire ≤ x.run.goodCount then
    moveStation n (if x.config.hold then .held else .admitted) .acquired
      { x.run with acqTimer := none, silenceTimer := silenceStart s n } s
  else s

/-- Entry to ACQUIRING by a good report, in AWAITING or SILENT, with the count test (R43, R45, R50). -/
def beginAcquiring (n : StationNo) (cause : StationCause) (t : GridTime) (suspect : Bool) (s : State) : State :=
  let r := (s.station n).run
  testAcquired n (moveStation n .acquiring cause
    { r with acqTimer := acqStart s n, silenceTimer := none
             goodCount := if suspect then 0 else 1
             lastFresh := if suspect then r.lastFresh else some t } s)

/-- A report is fresh (section 3.3). -/
def isFresh (last : Option GridTime) (t : GridTime) : Bool :=
  match last with
  | some l => earlier l t
  | none => true

/-- The change of the good count by a good report in ACQUIRING (R44). -/
def StationRun.counted (r : StationRun) (t : GridTime) (suspect : Bool) : StationRun :=
  if suspect then { r with goodCount := 0 }
  else if isFresh r.lastFresh t then { r with goodCount := r.goodCount + 1, lastFresh := some t }
  else { r with goodCount := 1, lastFresh := some t }

/-- A good report in ACQUIRING (R44, R45). -/
def countGood (n : StationNo) (t : GridTime) (suspect : Bool) (s : State) : State :=
  testAcquired n (s.setRun n ((s.station n).run.counted t suspect))

/-! ## Good reports (R24, R43-R50, R55, R58) -/

/-- The return to the old shape (R55): the pending shape and the confirmation count are cleared, the silence timer stops,
and the report is taken as a good report in the return state. Whether the return state is cleared is free (log 11). -/
def revertShape (n : StationNo) (t : GridTime) (suspect : Bool) (s : State) : State :=
  let r := (s.station n).run
  let cleared : StationRun :=
    { r with pendingShape := none, confirmations := 0, silenceTimer := none
             returnState := if Config.revertKeepsReturnState then r.returnState else none }
  match r.returnState with
  | none => s
  | some .acquiring =>
    countGood n t suspect (moveStation n .acquiring .shapeReverted { cleared with acqTimer := acqStart s n } s)
  | some .held => moveStation n .held .shapeReverted { cleared with silenceTimer := silenceStart s n } s
  | some .admitted => moveStation n .admitted .shapeReverted { cleared with silenceTimer := silenceStart s n } s

/-- The station's run state advances for a good report in its current state (R24 item 3). -/
def advanceStation (n : StationNo) (t : GridTime) (suspect : Bool) (s : State) : State :=
  match (s.station n).run.state with
  | .disabled => s
  | .awaiting => beginAcquiring n .firstReport t suspect s
  | .acquiring => countGood n t suspect s
  | .held => restartSilence n s
  | .admitted => restartSilence n s
  | .silent =>
    if (s.station n).config.reacquire then beginAcquiring n .reacquire t suspect s
    else moveStation n .admitted .resumed { (s.station n).run with silenceTimer := silenceStart s n } s
  | .shapePending => revertShape n t suspect s
  | .shapeHeld => revertShape n t suspect s

/-- The last-report-suspect flag takes the suspect mark; a change to set is a rising edge of SUSPECT_TIME (R24, R152). -/
def markSuspect (n : StationNo) (suspect : Bool) (s : State) : State :=
  let s' := s.setRun n { (s.station n).run with suspect := suspect }
  if suspect && !(s.station n).run.suspect then risingEdge n .suspectTime s' else s'

/-- The latency tracker records a measured delay while the Timebase is not FREE (R58). -/
def recordDelay (n : StationNo) (delay : Nat) (s : State) : State :=
  if s.timebase.mode = .free then s
  else s.setRun n { (s.station n).run with curMax := max (s.station n).run.curMax (min delay Config.delayMax) }

/-- Intake step 6: the Station Table takes a good report (R24). -/
def takeGoodReport (n : StationNo) (t : GridTime) (suspect short : Bool) (arrival : GridTime) (s : State) : State :=
  let s := if short then risingEdge n .short s else s
  advanceStation n t suspect (recordDelay n (measuredDelay arrival t) (markSuspect n suspect s))

/-! ## Shape changes (section 3.4) -/

/-- The descriptor takes a shape (R57). -/
def adoptShape (n : StationNo) (x : Shape) (s : State) : State :=
  s.setConfig n { (s.station n).config with shape := x }

/-- Entry to ACQUIRING under a newly taken shape (R54, R56, R57). -/
def acquireShape (n : StationNo) (cause : StationCause) (x : Shape) (s : State) : State :=
  moveStation n .acquiring cause { (s.station n).run.restarted with acqTimer := acqStart s n } (adoptShape n x s)

/-- Entry to SHAPE_PENDING from ACQUIRING, HELD or ADMITTED (R53). -/
def beginPending (n : StationNo) (back : ReturnState) (x : Shape) (s : State) : State :=
  moveStation n .shapePending .shapeChange
    { (s.station n).run with returnState := some back, pendingShape := some x, confirmations := 1, acqTimer := none
                             silenceTimer := silenceStart s n } s

/-- A SHAPE_CHANGE report in SHAPE_PENDING (R54). -/
def confirmShape (n : StationNo) (x : Shape) (s : State) : State :=
  let r := (s.station n).run
  if r.pendingShape = some x then
    let r' := { r with confirmations := r.confirmations + 1, silenceTimer := silenceStart s n }
    if r'.confirmations < 3 then s.setRun n r'
    else if (s.station n).config.shapeAuto then acquireShape n .shapeAdopted x s
    else moveStation n .shapeHeld .shapeConfirmed r' s
  else s.setRun n { r with pendingShape := some x, confirmations := 1, silenceTimer := silenceStart s n }

/-- A SHAPE_CHANGE report in SHAPE_HELD (R56). -/
def heldShape (n : StationNo) (x : Shape) (s : State) : State :=
  let r := (s.station n).run
  if r.pendingShape = some x then restartSilence n s
  else moveStation n .shapePending .shapeChange
    { r with pendingShape := some x, confirmations := 1, silenceTimer := silenceStart s n } s

/-- The shape path: what a SHAPE_CHANGE report does (R53). -/
def takeShapeChange (n : StationNo) (x : Shape) (s : State) : State :=
  match (s.station n).run.state with
  | .acquiring => beginPending n .acquiring x s
  | .held => beginPending n .held x s
  | .admitted => leaveAwaited n (beginPending n .admitted x s)
  | .shapePending => confirmShape n x s
  | .shapeHeld => heldShape n x s
  | .awaiting => s
  | .silent => s
  | .disabled => s

/-! ## Expiries -/

/-- Entry to AWAITING by silence or acquisition failure (R43). -/
def toAwaiting (n : StationNo) (cause : StationCause) (s : State) : State :=
  moveStation n .awaiting cause (s.station n).run.restarted s

/-- The acquisition timer expires (R46). -/
def acquisitionExpired (n : StationNo) (s : State) : State :=
  if (s.station n).run.state = .acquiring then toAwaiting n .acquireFailed s else s

/-- The silence timer expires (R49): the transition, in SILENT the rising edge of its condition (R152), then the awaited
sets (R51, R162). -/
def silenceExpired (n : StationNo) (s : State) : State :=
  match (s.station n).run.state with
  | .admitted =>
    leaveAwaited n (risingEdge n .silent (moveStation n .silent .silence { (s.station n).run with silenceTimer := none } s))
  | .held => toAwaiting n .silence s
  | .shapePending => toAwaiting n .silence s
  | .shapeHeld => toAwaiting n .silence s
  | .disabled => s
  | .awaiting => s
  | .acquiring => s
  | .silent => s

/-- A period end for one descriptor (R59). -/
def Station.rolled (x : Station) : Station := { x with run := { x.run with prevMax := x.run.curMax, curMax := 0 } }

/-- Both latency maxima of a descriptor become 0 (R59, R145). -/
def Station.untracked (x : Station) : Station := { x with run := { x.run with prevMax := 0, curMax := 0 } }

/-! ## Station requests (R38-R42, R47, R56, R61-R63, R159) -/

/-- Takes or does not take a deferral for a station request that has acted: its own answer OK, or the held slot, which
joins the station's deferrals (R61, R188). -/
def answerOrHold (n : StationNo) (r : Request) (d : Option SlotNo) (s : State) : State :=
  match d with
  | none => answerRequest r .ok [] s
  | some d =>
    let s := holdAnswer d r (.station n) s
    s.setRun n { (s.station n).run with deferrals := (s.station n).run.deferrals ++ [d] }

/-- READ_STATION (R39). -/
def handleReadStation (r : Request) : State → State :=
  withPayload r 0 fun _ => withStation r fun n s =>
    answerRequest r .ok (stationConfigBytes (s.station n).config ++ stationRunBytes s.elapsed (s.station n).run) s

/-- The five fields that change only while DISABLED agree (R38). -/
def sameIdentity (a b : StationConfig) : Bool := a.code == b.code && a.shape == b.shape && a.rate == b.rate

/-- WRITE_STATION (R38). -/
def handleWriteStation (r : Request) : State → State :=
  withPayload r 32 fun p => withStation r fun n s =>
    withValue r (stationConfigOf (s.station n).config.enable p) (fun c s =>
      if (s.station n).run.state ≠ .disabled ∧ !sameIdentity c (s.station n).config then refuse r .refusedState s
      else answerRequest r .ok [] (s.setConfig n c)) s

/-- ENABLE_STATION (R41). -/
def handleEnableStation (r : Request) : State → State :=
  withPayload r 0 fun _ => withStation r fun n s =>
    let c := (s.station n).config
    if (s.station n).run.state ≠ .disabled ∨ c.code = 0 then refuse r .refusedState s
    else if (codeLookup s.codeMap c.code).isSome then refuse r .codeInUse s
    else
      withSlot r (fun d s =>
        let s := s.setStation n ⟨{ c with enable := true }, .cleared .awaiting⟩
        let s := pushNotice (.stationState n .disabled .awaiting .enable)
          { s with codeMap := codeInsert c.code n s.codeMap }
        answerOrHold n r d s) s

/-- DISABLE_STATION on a station that is not DISABLED, but for its answer (R42). -/
def disableStation (n : StationNo) (s : State) : State :=
  let x := s.station n
  let s := { s.setConfig n { x.config with enable := false } with codeMap := codeRemove x.config.code n s.codeMap }
  let s := moveStation n .disabled .disable x.run.restarted s
  if x.run.state = .admitted then leaveAwaited n s else s

/-- DISABLE_STATION (R42). -/
def handleDisableStation (r : Request) : State → State :=
  withPayload r 0 fun _ => withStation r fun n s =>
    if (s.station n).run.state = .disabled then answerRequest r .ok [] s
    else answerRequest r .ok [] (disableStation n s)

/-- ADMIT_STATION (R47). -/
def handleAdmitStation (r : Request) : State → State :=
  withPayload r 0 fun _ => withStation r fun n s =>
    if (s.station n).run.state = .held then
      answerRequest r .ok [] (moveStation n .admitted .admission (s.station n).run s)
    else refuse r .refusedState s

/-- ACCEPT_SHAPE (R56, R61). In SHAPE_HELD a pending shape is present (R54). -/
def handleAcceptShape (r : Request) : State → State :=
  withPayload r 0 fun _ => withStation r fun n s =>
    match (s.station n).run.state, (s.station n).run.pendingShape with
    | .shapeHeld, some x => withSlot r (fun d s => answerOrHold n r d (acquireShape n .accept x s)) s
    | _, _ => refuse r .refusedState s

/-- READ_COUNTERS (R159). -/
def handleReadCounters (r : Request) : State → State :=
  withPayload r 0 fun _ => withStation r fun n s =>
    let x := (s.station n).run
    answerRequest r .ok (beCounters x.counters) (s.setRun n { x with counters := ⟨0, 0, 0⟩ })

/-- A record without a station's report (R82). -/
def Record.without (r : Record) (n : StationNo) : Record :=
  { r with arrivals := r.arrivals.filter (fun e => !(e.1 == n)) }

/-- EXCHANGE_STATION withdraws a station's reports: their entries go and their slots are free (R82). -/
def withdraw (n : StationNo) (s : State) : State :=
  { s with timeline := s.timeline.map (·.without n)
           freeSlots := s.freeSlots + (s.timeline.map (fun r => (r.arrivals.filter (fun e => e.1 == n)).length)).sum }

/-- The outgoing context (R62). -/
def outgoingContext (x : Station) : List Byte :=
  be16 x.config.code ++ be8 x.run.state.code ++ beCounters x.run.counters ++ be32 x.run.estimate ++
    bePer (fun l => beFlag l.set) x.run.latches

/-- An accepted EXCHANGE_STATION, in the order of R63. -/
def exchangeStation (n : StationNo) (c : StationConfig) (s : State) : State :=
  let x := s.station n
  let new : StationState := if c.enable then .awaiting else .disabled
  let s := withdraw n s
  let s := if x.run.state = .disabled then s else { s with codeMap := codeRemove x.config.code n s.codeMap }
  let s := completeDeferrals n .aborted s
  let s := s.setStation n ⟨c, .cleared new⟩
  let s := if c.enable then { s with codeMap := codeInsert c.code n s.codeMap } else s
  let s := pushNotice (.stationState n x.run.state new .exchange) s
  if x.run.state = .admitted then leaveAwaited n s else s

/-- The code is held in the Code Map by a different descriptor (R62). -/
def codeHeldByOther (s : State) (n : StationNo) (code : Nat) : Bool :=
  match codeLookup s.codeMap code with
  | some m => !(m == n)
  | none => false

/-- EXCHANGE_STATION (R62, R63). -/
def handleExchangeStation (r : Request) : State → State :=
  withPayload r 33 fun p => withStation r fun n =>
    withValue r ((flagAt p 0).bind fun enable => stationConfigOf enable (p.drop 1)) fun c s =>
      if c.enable ∧ c.code = 0 then refuse r .badRequest s
      else if c.enable ∧ codeHeldByOther s n c.code then refuse r .codeInUse s
      else answerRequest r .ok (outgoingContext (s.station n)) (exchangeStation n c s)

end Sys2Proof.Machine
end

