-- ==== Sys2Proof/Machine/Intake.lean ====
section
/-! DEFINITION. The Report Intake (chapter 2): the round robin over the receive queues, the eight steps of a report, and
placement in the Timeline and the Report Store (R26-R33, R77, R79). -/

namespace Sys2Proof.Machine

/-! ## Placement -/

/-- The store-discard count rises (R81). -/
def storeDiscard (s : State) : State := { s with storeDiscards := satInc s.storeDiscards }

/-- A report placed in a record is late for some stream (R33). -/
def lateInRecord (s : State) (r : Record) : Bool :=
  allStreams.any fun k =>
    match r.windows[k].state with
    | .closed _ => true
    | .notUsed => hasPassed s k r.instant
    | .opened => false
    | .ready _ => false

/-- A window of the record as the arrival reaches it: a waiting one takes it, a closed one counts it late (R32, R33). -/
def takeArrival (closeOnComplete : Bool) (n : StationNo) (w : Window) : Window :=
  match w.state with
  | .opened => dropAwaited closeOnComplete n w
  | .ready _ => dropAwaited closeOnComplete n w
  | .closed _ => { w with late := satInc w.late }
  | .notUsed => w

/-- The entry is made: one free slot fewer, one map entry more, and the windows take the arrival; those that are READY and
have no earlier waiting window then close (R31, R32, R74). -/
def enterReport (n : StationNo) (t : GridTime) (p : Report) (s : State) : State :=
  settleAll (modifyRecord t
    (fun r => { r with arrivals := arrivalInsert n p r.arrivals }.mapWindows
      (fun k w => takeArrival (s.stream k).config.closeOnComplete n w))
    { s with freeSlots := s.freeSlots - 1 })

/-- The slot step (R30, R79): a free slot takes the report; without one the oldest record is force-closed, again and again,
until a slot is free, the report's own record is the oldest (STORE_FULL) or has left. The second component says whether
the report is late. Each turn takes a record out, so `fuel` above the number of records is enough. -/
def placeInRecord (n : StationNo) (t : GridTime) (p : Report) : Nat → State → State × Bool
  | 0, s => (s, false)
  | fuel + 1, s =>
    match recordAt s t with
    | none => (s, anyPassed s t)
    | some r =>
      if 0 < s.freeSlots then (enterReport n t p s, lateInRecord s r)
      else
        match s.timeline with
        | [] => (s, false)
        | o :: _ =>
          if o.instant = t then (settleAll (storeDiscard s), false)
          else placeInRecord n t p fuel (forceClose o.instant s)

/-- Creation of the report's record, if some stream (still) wants the instant, then the slot step; else the report is LATE
or UNSCHEDULED (R27, R28, R77). -/
def createAndPlace (n : StationNo) (t : GridTime) (p : Report) (s : State) : State × Bool :=
  if anyWants s t then placeInRecord n t p (s.timeline.length + 2) (createRecord t .arrival s)
  else (s, anyPassed s t)

/-- Placement of a report (R27-R30, R77), without the effect of its being late: the second component says whether it is. -/
def place (n : StationNo) (t : GridTime) (p : Report) (s : State) : State × Bool :=
  match recordAt s t with
  | some r =>
    if (arrivalOf r.arrivals n).isSome then (countStation n .reject s, false)
    else placeInRecord n t p (s.timeline.length + 1) s
  | none =>
    if !anyWants s t then (s, anyPassed s t)
    else if s.timeline.length < Config.recordCapacity then createAndPlace n t p s
    else
      match s.timeline with
      | [] => (s, false)
      | o :: _ =>
        if earlier o.instant t then createAndPlace n t p (forceClose o.instant s) else (storeDiscard s, false)

/-- A late report: LATE_COUNT and the LATE condition (R27, R33). -/
def lateEffect (n : StationNo) (s : State) : State := risingEdge n .late (countStation n .late s)

/-- Step 8: placement. The notices of a late report come before those of the closes that its placement causes (R162), so
its effect is applied first; placement reads neither counters nor latches (log 24). -/
def placement (n : StationNo) (t : GridTime) (p : Report) (s : State) : State :=
  if (place n t p s).2 then (place n t p (lateEffect n s)).1 else (place n t p s).1

/-! ## The eight steps (Table 2-2) -/

/-- Step 5: the report is FUTURE (R22); the check is skipped in FREE. -/
def isFuture (s : State) (t : GridTime) : Bool :=
  !(s.timebase.mode == .free) && earlier (addNs s.localTime (1000000 * s.globals.futureTolerance)) t

/-- Steps 5 to 8, for a report of station n with snapped instant time t. -/
def takeOnGrid (n : StationNo) (t : GridTime) (p : ParsedReport) (arrival : GridTime) (s : State) : State :=
  if isFuture s t then countStation n .reject s
  else
    let quality := (s.station n).config.quality
    let s := takeGoodReport n t (p.suspect quality) p.short arrival s
    if (s.station n).run.state = .admitted then placement n t (p.stored quality) s else s

/-- Steps 3 to 8, for a report of station n. -/
def takeKnown (n : StationNo) (p : ParsedReport) (arrival : GridTime) (s : State) : State :=
  let c := (s.station n).config
  if p.shape ≠ c.shape then takeShapeChange n p.shape s
  else
    match snap c.rate c.snapTol p.tag with
    | none => risingEdge n .offGrid (countStation n .reject s)
    | some t => takeOnGrid n t p arrival s

/-- The eight steps, for a frame of line link l. -/
def takeReport (l : LineId) (f : QueuedFrame) (s : State) : State :=
  match parseReport f.bytes with
  | none => s
  | some p =>
    match codeLookup s.codeMap p.code with
    | none => unknownCodeEdge l p.code s
    | some n => takeKnown n p f.arrival s

/-- The first non-empty queue, searching from the link after the one the pointer names (R15). -/
def nextLine (s : State) : Option LineId :=
  [s.pointer + 1, s.pointer + 2, s.pointer + 3, s.pointer].find? (fun l => !(s.line l).queue.isEmpty)

/-- One turn of the intake (R15, R16); with every receive queue empty it takes nothing. -/
def intake (s : State) : State :=
  match nextLine s with
  | none => s
  | some l =>
    match (s.line l).queue with
    | [] => s
    | f :: rest => takeReport l f { s.setLine l { s.line l with queue := rest } with pointer := l }

end Sys2Proof.Machine
end

