-- ==== Sys2Proof/Machine/Streams.lean ====
section
/-! DEFINITION. Streams (chapters 5 and 6): the schedule, deadlines, what a forward setting reaches, the operations of the
stream and plan requests, FLUSH, and what a time step does to a stream. -/

namespace Sys2Proof.Machine

/-! ## The schedule (R73, R76, R97) -/

/-- The schedule mark after the schedule has reached instant t (R97). -/
def markReached (k : StreamNo) (t : GridTime) (s : State) : State :=
  s.setStreamRun k { (s.stream k).run with mark := laterOf t (s.stream k).run.floor }

/-- A record made by a schedule, whose windows that are READY at once close (R72, R73). -/
def scheduleRecord (t : GridTime) (s : State) : State := settleAll (createRecord t .schedule s)

/-- The Timeline's part of a schedule point: the record is found, created, or, at a full Timeline, created after a forced
close or skipped (R73, R76). -/
def scheduleAt (k : StreamNo) (t : GridTime) (s : State) : State :=
  match recordAt s t with
  | some _ => s
  | none =>
    if s.timeline.length < Config.recordCapacity then scheduleRecord t s
    else
      match s.timeline with
      | [] => s
      | o :: _ =>
        if earlier o.instant t then
          let s := forceClose o.instant s
          if anyWants s t then scheduleRecord t s else s
        else setFloor k t (storeDiscard s)

/-- The schedule reaches an instant (R97). -/
def reachSchedule (k : StreamNo) (t : GridTime) (s : State) : State := markReached k t (scheduleAt k t s)

/-- The schedule point of a stream: only a RUNNING one has one (R97). -/
def schedulePointOf (s : State) (k : StreamNo) : Option GridTime :=
  if (s.stream k).run.state = .running then nextInstant (s.stream k).config.rate (s.stream k).run.mark else none

/-- Local time reaches a stream's schedule point. -/
def schedulePoint (k : StreamNo) (s : State) : State :=
  match schedulePointOf s k with
  | none => s
  | some t => reachSchedule k t (s.runClockToLocal t)

/-! ## Deadlines (R104) -/

/-- The deadline of a window expires: an OPEN one becomes READY and closes if nothing holds it back. -/
def expireDeadline (t : GridTime) (k : StreamNo) (s : State) : State :=
  match windowAt s t k with
  | none => s
  | some w =>
    match w.state with
    | .opened => settle k (modifyRecord t (fun r => r.setWindow k { w with state := .ready .deadline }) s)
    | .ready _ => s
    | .closed _ => s
    | .notUsed => s

/-- Local time reaches the deadline of a window. -/
def deadlineReached (t : GridTime) (k : StreamNo) (s : State) : State :=
  match (windowAt s t k).bind (·.deadline) with
  | none => s
  | some d => expireDeadline t k (s.runClockToLocal d)

/-! ## A forward setting of local time (R11) -/

/-- The OPEN windows of a stream whose deadlines local time has reached: each deadline with its expiry. -/
def dueDeadlines (s : State) (k : StreamNo) : List (GridTime × (State → State)) :=
  s.timeline.filterMap fun r =>
    match r.windows[k].state, r.windows[k].deadline with
    | .opened, some d => if atOrBefore d s.localTime then some (d, expireDeadline r.instant k) else none
    | _, _ => none

/-- A stream's schedule point, if local time has reached it. -/
def dueSchedule (s : State) (k : StreamNo) : List (GridTime × (State → State)) :=
  match schedulePointOf s k with
  | some t => if atOrBefore t s.localTime then [(t, reachSchedule k t)] else []
  | none => []

/-- Everything local time has reached; deadlines stand before schedule points, and each by stream number (log 14). -/
def dueEvents (s : State) : List (GridTime × (State → State)) :=
  allStreams.flatMap (dueDeadlines s) ++ allStreams.flatMap (dueSchedule s)

/-- The first of the earliest events. -/
def earliestEvent : List (GridTime × (State → State)) → Option (GridTime × (State → State))
  | [] => none
  | e :: l =>
    match earliestEvent l with
    | none => some e
    | some f => if earlier f.1 e.1 then some f else some e

/-- Takes what local time has reached, earliest first (R11, R97; log 14). -/
def reach : Nat → State → State
  | 0, s => s
  | fuel + 1, s =>
    match earliestEvent (dueEvents s) with
    | none => s
    | some e => reach fuel (e.2 s)

/-- More than the events that one setting can reach: the waiting windows, and for each stream the instants between its
schedule mark and local time. -/
def reachBound (s : State) : Nat :=
  8 * s.timeline.length + allStreams.foldl (fun m k =>
    m + (s.localTime.sec - (s.stream k).run.mark.sec + 1) * (s.stream k).config.rate.rate) 0

/-- Every deadline and schedule point that local time has reached is taken (R11). -/
def reachAll (s : State) : State := reach (reachBound s) s

/-! ## START_STREAM and STOP_STREAM (R90-R95) -/

/-- START_STREAM opens the stream's window in a record (R91). -/
def openIn (k : StreamNo) (t : GridTime) (s : State) : State :=
  match recordAt s t with
  | none => s
  | some r => settle k (modifyRecord t (fun q => q.setWindow k (openedWindow s k r)) s)

/-- An accepted START_STREAM on a STOPPED stream (R90, R91), but for its answer. -/
def startStream (k : StreamNo) (s : State) : State :=
  let x := s.stream k
  let floor := laterOf x.run.floor s.localTime
  let s := pushNotice (.streamState k x.run.state .running .start)
    (s.setStreamRun k { x.run with state := .running, floor := floor, mark := laterOf x.run.mark floor })
  (instants s).foldl (fun s t => if isInstant x.config.rate t && earlier floor t then openIn k t s else s) s

/-- START_STREAM (R90). -/
def handleStartStream (r : Request) : State → State :=
  withPayload r 0 fun _ => withStream r fun k s =>
    match (s.stream k).run.state with
    | .stopped => if s.timebase.timeKnown then answerRequest r .ok [] (startStream k s) else refuse r .noTime s
    | .running => answerRequest r .ok [] s
    | .draining => refuse r .busy s

/-- The payload of an answer OK that STOP_STREAM completes within the request (R95). -/
def stopDetail (r : Request) (cause : StreamCause) : List Byte := if r.wait = 1 then be8 cause.detail else []

/-- STOP_STREAM answered OK on a STOPPED stream (R94, R95). -/
def stopStopped (r : Request) : State → State :=
  withSlot r fun _ s => answerRequest r .ok (stopDetail r .drained) s

/-- A drain begins (R92); with a slot the answer is held as the stream's pending stop (R95). -/
def beginDrain (k : StreamNo) (r : Request) (d : Option SlotNo) (s : State) : State :=
  let s := pushNotice (.streamState k (s.stream k).run.state .draining .drain)
    (s.setStreamRun k { (s.stream k).run with state := .draining })
  match d with
  | none => answerRequest r .ok [] s
  | some d =>
    let s := holdAnswer d r (.stream k) s
    s.setStreamRun k { (s.stream k).run with pendingStop := some d }

/-- STOP_STREAM with mode DRAIN (R92, R94, R95). -/
def handleStopDrain (r : Request) : State → State :=
  withPayload r 1 fun _ => withStream r fun k s =>
    match (s.stream k).run.state with
    | .stopped => stopStopped r s
    | .draining => refuse r .busy s
    | .running =>
      withSlot r (fun d s =>
        if hasWaiting s k then beginDrain k r d s
        else answerRequest r .ok (stopDetail r .drained) (stopStream k .drained s)) s

/-- The cut of a stream (R93): every waiting window closes, then the stream stops. -/
def cutStream (k : StreamNo) (s : State) : State := stopStream k .cut (closeAll k .cut s)

/-- STOP_STREAM with mode CUT (R93-R95). -/
def handleStopCut (r : Request) : State → State :=
  withPayload r 1 fun _ => withStream r fun k s =>
    if (s.stream k).run.state = .stopped then stopStopped r s
    else withSlot r (fun _ s => answerRequest r .ok (stopDetail r .cut) (cutStream k s)) s

/-- STOP_STREAM with any other mode (R94, R184). -/
def handleStopBadMode (r : Request) : State → State :=
  withPayload r 1 fun _ => withStream r fun _ => refuse r .badRequest

/-! ## FLUSH and the time step (R110, R111) -/

/-- FLUSH on one stream (R110). -/
def flushStream (s : State) (k : StreamNo) : State :=
  match (s.stream k).run.state with
  | .stopped => s
  | .running => closeAll k .flushed s
  | .draining => stopStream k .flushed (closeAll k .flushed s)

/-- FLUSH (R110). -/
def handleFlush (r : Request) : State → State :=
  withPayload r 0 fun _ s => answerRequest r .ok [] (allStreams.foldl flushStream s)

/-- The stream's share of a time step to local time t, before a DRAINING stream stops (R111 steps 1 to 3). A
discontinuity that is pending before it marks the first set that its closes build (R126; log 30). -/
def stepWindows (t : GridTime) (k : StreamNo) (s : State) : State :=
  let s := closeAll k .stepped s
  let s := setFloor k (laterOf (s.stream k).run.floor t) s
  s.setStreamRun k { (s.stream k).run with discontinuity := true }

/-- A time step on one stream (R111). -/
def stepStream (t : GridTime) (s : State) (k : StreamNo) : State :=
  match (s.stream k).run.state with
  | .stopped => s
  | .running => stepWindows t k s
  | .draining => stopStream k .stepped (stepWindows t k s)

/-! ## READ_STREAM and WRITE_STREAM (R88) -/

/-- The number of a stream's windows that are OPEN. -/
def openCount (s : State) (k : StreamNo) : Nat := s.timeline.countP (fun r => r.windows[k].state == .opened)
/-- The number of a stream's windows that are READY. -/
def readyCount (s : State) (k : StreamNo) : Nat :=
  s.timeline.countP (fun r => r.windows[k].waiting && !(r.windows[k].state == .opened))
/-- The instant time of a stream's earliest OPEN or READY window. -/
def earliestWaiting (s : State) (k : StreamNo) : Option GridTime :=
  (s.timeline.find? (fun r => r.windows[k].waiting)).map (·.instant)

/-- The answer to READ_STREAM: Table 5-1, Table 5-2 with the length of the Set Queue and the presence of the pending stop,
then what R88 lists (R183; log 16). -/
def streamBytes (s : State) (k : StreamNo) : List Byte :=
  let r := (s.stream k).run
  streamConfigBytes (s.stream k).config ++ be8 r.state.code ++ beGrid r.floor ++ beGrid r.mark ++ be32 r.nextSeq ++
    beFlag r.discontinuity ++ be16 r.built ++ be16 r.sent ++ be16 r.discarded ++ be16 r.forced ++ be8 r.queue.length ++
    beFlag r.pendingStop.isSome ++ be16 (openCount s k) ++ be16 (readyCount s k) ++ beGridOr (earliestWaiting s k)

/-- READ_STREAM (R88). -/
def handleReadStream (r : Request) : State → State :=
  withPayload r 0 fun _ => withStream r fun k s => answerRequest r .ok (streamBytes s k) s

/-- WRITE_STREAM (R88). -/
def handleWriteStream (r : Request) : State → State :=
  withPayload r 19 fun p => withStream r fun k =>
    withValue r (streamConfigOf p) fun c s =>
      if (s.stream k).run.state ≠ .stopped then refuse r .refusedState s
      else if c.link ≠ (s.stream k).config.link ∧ (s.stream k).run.queue ≠ [] then refuse r .busy s
      else answerRequest r .ok [] (s.setStream k { s.stream k with config := c })

/-! ## READ_PLAN and WRITE_PLAN (R118-R120) -/

/-- READ_PLAN (R120). -/
def handleReadPlan (r : Request) : State → State :=
  withPayload r 3 fun p => withStream r fun k s =>
    let c := (s.stream k).config
    let start := numAt16 p 0
    let count := byteAt p 2
    if count = 0 ∨ 64 < count then refuse r .badRequest s
    else if c.planLength < start + count then refuse r .outOfBounds s
    else answerRequest r .ok (((planSegment s c).drop start).take count |>.flatMap planEntryBytes) s

/-- Some absolute entry from `first`, `count` long, lies in the segment of a RUNNING or DRAINING stream (R118 check 5). -/
def touchesRunning (s : State) (first count : Nat) : Bool :=
  allStreams.any fun k =>
    let c := (s.stream k).config
    !((s.stream k).run.state == .stopped) && c.planBase < first + count && first < c.planBase + c.planLength

/-- Writes entries from an absolute entry number onward, in list order (R119). -/
def writeEntries : Nat → List PlanEntry → Vector PlanEntry 4096 → Vector PlanEntry 4096
  | _, [], v => v
  | i, e :: l, v => writeEntries (i + 1) l (v.setIfInBounds i e)

/-- WRITE_PLAN (R118, R119); its required length follows from the count it carries (R184). -/
def handleWritePlan (r : Request) : State → State :=
  withPayload r (3 + 4 * byteAt r.delivered 2) fun p => withStream r fun k s =>
    let c := (s.stream k).config
    let start := numAt16 p 0
    let count := byteAt p 2
    if count = 0 ∨ 64 < count then refuse r .badRequest s
    else if c.planLength < start + count then refuse r .outOfBounds s
    else
      withValue r (planEntriesOf p 3 count) (fun l s =>
        if touchesRunning s (c.planBase + start) count then refuse r .refusedRunning s
        else answerRequest r .ok [] { s with plan := writeEntries (c.planBase + start) l s.plan }) s

end Sys2Proof.Machine
end

