-- ==== Sys2Proof/Machine/Timebase.lean ====
section
/-! DEFINITION. The Timebase (chapter 7): markers, time messages, window ends, the states FREE, LOCKED and HOLDOVER,
settings of local time, time steps, and the Timebase requests. -/

namespace Sys2Proof.Machine

/-! ## Inputs (R132-R136) -/

/-- A reference input of a Timebase. -/
def Timebase.input (tb : Timebase) : InputId → RefInput
  | .a => tb.inputA
  | .b => tb.inputB

/-- A reference input. -/
def inputOf (s : State) (i : InputId) : RefInput := s.timebase.input i

/-- Replaces a reference input. -/
def setInput (i : InputId) (x : RefInput) (s : State) : State :=
  match i with
  | .a => { s with timebase := { s.timebase with inputA := x } }
  | .b => { s with timebase := { s.timebase with inputB := x } }

/-- The other input. -/
def otherInput : InputId → InputId
  | .a => .b
  | .b => .a

/-- The expected time of the next marker (R133); an ABSENT input has none. -/
def RefInput.expected (x : RefInput) : Option Nat := x.lastMarker.map (fun m => Config.second * (x.missed + 1) + m)

/-- A marker at elapsed time `now` lies in the marker window (R133). -/
def RefInput.inWindow (x : RefInput) (now : Nat) : Bool :=
  match x.expected with
  | some e => e ≤ Config.markerHalfWindow + now && now ≤ Config.markerHalfWindow + e
  | none => false

/-- The second that an accepted marker announces, if it is a good second (R135). -/
def RefInput.goodSecond (x : RefInput) : Option Nat :=
  match x.message, x.lastSecond with
  | some m, some l => if m.locked && l < Config.lastSecond && m.second == l + 1 then some m.second else none
  | _, _ => none

/-- The input after a good second (R135). -/
def RefInput.afterGood (x : RefInput) (now second : Nat) : RefInput :=
  { x with
    qual := if 8 ≤ x.goodSeconds + 1 then .qualified else x.qual
    goodSeconds := min 8 (x.goodSeconds + 1)
    lastSecond := some second, lastMarker := some now, missed := 0, message := none }

/-- The input after a bad second (R135). -/
def RefInput.afterBad (x : RefInput) (now : Nat) : RefInput :=
  { x with
    qual := .qualifying, goodSeconds := 0, lastSecond := x.message.map (·.second)
    lastMarker := some now, missed := 0, message := none }

/-- Replaces an input, with the INPUT_STATE notice of a change of its state (R148). -/
def changeInput (i : InputId) (x : RefInput) (cause : InputCause) (s : State) : State :=
  if x.qual = (inputOf s i).qual then setInput i x s
  else pushNotice (.inputState i (inputOf s i).qual x.qual cause) (setInput i x s)

/-! ## Timebase transitions (R138-R143) -/

/-- Replaces the Timebase mode, with the TIMEBASE_STATE notice (R148). -/
def changeMode (tb : Timebase) (cause : TimebaseCause) (s : State) : State :=
  pushNotice (.timebaseState s.timebase.mode tb.mode cause) { s with timebase := tb }

/-- Entry to LOCKED (R138, R139, R142, R143). -/
def lockTo (i : InputId) (cause : TimebaseCause) (s : State) : State :=
  changeMode { s.timebase with mode := .locked i, firstPending := true, timeKnown := true, holdoverTimer := none } cause s

/-- The locked input has left QUALIFIED (R141). -/
def loseLocked (i : InputId) (s : State) : State :=
  if (inputOf s (otherInput i)).qual = .qualified then lockTo (otherInput i) .switchover s
  else
    changeMode { s.timebase with
      mode := .holdover, firstPending := false
      holdoverTimer := some (Config.second * s.timebase.holdoverLimit + s.elapsed) } .lost s

/-- The Timebase's part when an input has left QUALIFIED: nothing unless it is the locked one. -/
def inputLost (i : InputId) (s : State) : State := if s.timebase.mode = .locked i then loseLocked i s else s

/-! ## Settings of local time (R139, R140, R144-R146) -/

/-- The difference that a TIME_STEP notice carries (R144). -/
def stepMs (d : Int) : Int := max (-2147483647) (min 2147483647 (d.tdiv 1000000))

/-- A time step by d nanoseconds, with local time already at its new value (R144, R145). -/
def timeStep (d : Int) (s : State) : State :=
  let s := pushNotice (.timeStep (stepMs d)) s
  let s := allStreams.foldl (stepStream s.localTime) s
  { s with stations := mapVec Station.untracked s.stations }

/-- A good second of the locked input sets local time to the announced second (R139): the first setting is compared with
the old local time (R144), a forward setting that is no step reaches what it reaches (R11). -/
def setLocalTime (second : Nat) (s : State) : State :=
  let old := s.localTime
  let d := diffNs ⟨second, 0⟩ old
  let s' := { s with timebase := { s.timebase with localTime := ⟨second, 0⟩, firstPending := false } }
  if s.timebase.firstPending ∧ Config.stepThreshold < d.natAbs then timeStep d s'
  else if earlier old ⟨second, 0⟩ then reachAll s'
  else s'

/-- The Timebase's part at a good second of input i (R138, R139, R142, R143). `became` says that this marker qualified the
input. -/
def goodSecondOf (i : InputId) (second : Nat) (became : Bool) (s : State) : State :=
  match s.timebase.mode with
  | .locked j =>
    if i = j then setLocalTime second s
    else if i = s.timebase.preferred ∧ s.timebase.revert ∧ (inputOf s i).qual = .qualified then
      setLocalTime second (lockTo i .revert s)
    else s
  | .free => if became then setLocalTime second (lockTo i .qualified s) else s
  | .holdover => if became then setLocalTime second (lockTo i .qualified s) else s

/-! ## Markers (R133-R135) -/

/-- A marker while the input is ABSENT (R134). -/
def firstMarker (i : InputId) (s : State) : State :=
  let x := inputOf s i
  match x.message with
  | none => s
  | some m =>
    if m.locked then
      changeInput i { x with qual := .qualifying, goodSeconds := 1, lastMarker := some s.elapsed
                             lastSecond := some m.second, message := none } .firstMarker s
    else setInput i { x with message := none } s

/-- A marker accepted in QUALIFYING or QUALIFIED (R135). -/
def acceptMarker (i : InputId) (s : State) : State :=
  let x := inputOf s i
  match x.goodSecond with
  | some second =>
    let y := x.afterGood s.elapsed second
    goodSecondOf i second (!(x.qual == .qualified) && y.qual == .qualified) (changeInput i y .qualified s)
  | none =>
    let s' := changeInput i (x.afterBad s.elapsed) .badSecond s
    if x.qual = .qualified then inputLost i s' else s'

/-- A marker arrives (R133-R135). -/
def marker (i : InputId) (s : State) : State :=
  let x := inputOf s i
  if x.qual = .absent then firstMarker i s
  else if x.inWindow s.elapsed then acceptMarker i s
  else setInput i { x with glitches := satInc x.glitches } s

/-! ## Time messages (R132, R180) -/

/-- The sum of bytes 1 to 7 of a message. -/
def messageSum (l : List Byte) : Nat := ((l.drop 1).take 7).foldl (fun a b => a + b.toNat) 0

/-- An assembled message is valid (R180, Table 9-10). -/
def messageValid (m : Assembly) : Bool :=
  byteAt m.bytes 1 == 5 && byteAt m.bytes 6 ≤ 1 && messageSum m.bytes % 256 == 0 && !m.fault

/-- The message line of an input has been idle for at least 10 byte times before a byte that arrives now, whose own byte time
lies between (R180). -/
def lineWasIdle (s : State) (i : InputId) : Bool :=
  Config.startByteBits * Config.second ≤ Config.baud * (s.elapsed - s.quiet i)

/-- A start byte begins a message; one that is being assembled is cut short, and so invalid (R132, R180). -/
def RefInput.startMessage (x : RefInput) (fault : Bool) : RefInput :=
  { x with
    assembly := some ⟨[0xA5], fault⟩
    messageErrors := if x.assembly.isSome then satInc x.messageErrors else x.messageErrors }

/-- A message whose eighth byte has arrived is judged, and its assembly ends: a valid one becomes the latest message, an
invalid one is counted (R132, R180). -/
def RefInput.judge (x : RefInput) (m : Assembly) : RefInput :=
  if messageValid m then
    { x with message := some ⟨numAt32 m.bytes 2, byteAt m.bytes 6 == 0⟩, assembly := none }
  else { x with messageErrors := satInc x.messageErrors, assembly := none }

/-- A byte that is no start byte: it joins the message being assembled, and is ignored where there is none (R180). -/
def RefInput.takeByte (x : RefInput) (value : Byte) (fault : Bool) : RefInput :=
  match x.assembly with
  | none => x
  | some m =>
    let m : Assembly := ⟨m.bytes ++ [value], m.fault || fault⟩
    if m.bytes.length < Config.messageBytes then { x with assembly := some m } else x.judge m

/-- A byte arrives on the message line of an input (R180). -/
def receiveByte (i : InputId) (value : Byte) (fault : Bool) (s : State) : State :=
  let x := inputOf s i
  let x := if value == 0xA5 && lineWasIdle s i then x.startMessage fault else x.takeByte value fault
  (setInput i x s).setQuiet i s.elapsed

/-- Bytes arrive on the message line of an input, those that follow the first each after its own gap (R132, R180; log 19). -/
def receiveBytes (i : InputId) (bytes : LineBytes) (s : State) : State :=
  bytes.rest.foldl (fun s b => receiveByte i b.value b.fault (s.runClock b.gap)) (receiveByte i bytes.value bytes.fault s)

/-! ## Window ends, holdover and the latency period (R59, R136, R143) -/

/-- An input after its first or second missed window (R136). -/
def RefInput.afterMiss (x : RefInput) : RefInput :=
  { x with
    missed := x.missed + 1, message := none
    lastSecond := x.lastSecond.map (fun l => if l < Config.lastSecond then l + 1 else l) }

/-- An input after its third missed window (R136). -/
def RefInput.afterLoss (x : RefInput) : RefInput :=
  { x with qual := .absent, goodSeconds := 0, lastMarker := none, lastSecond := none, missed := 0, message := none }

/-- A marker window has ended without an accepted marker (R136, R141). -/
def windowMissed (i : InputId) (s : State) : State :=
  let x := inputOf s i
  if x.missed < 2 then setInput i x.afterMiss s
  else
    let s' := changeInput i x.afterLoss .loss s
    if x.qual = .qualified then inputLost i s' else s'

/-- The end of an input's marker window, one nanosecond after its last instant (R133, R136; log 27); an ABSENT input has no
window. -/
def windowEnd (i : InputId) (s : State) : State :=
  let x := inputOf s i
  if x.qual = .absent then s
  else
    match x.expected with
    | none => s
    | some e => windowMissed i (s.runClockTo (Config.markerHalfWindow + 1 + e))

/-- The holdover timer expires (R143). -/
def holdoverExpired (s : State) : State :=
  match s.timebase.holdoverTimer with
  | none => s
  | some t =>
    let s := s.runClockTo t
    changeMode { s.timebase with mode := .free, holdoverTimer := none } .holdoverExpired s

/-- A latency period ends (R59). -/
def latencyPeriodOver (s : State) : State :=
  let s := s.runClockTo s.latencyEnd
  { s with stations := mapVec Station.rolled s.stations, latencyEnd := Config.latencyPeriod + s.latencyEnd }

/-! ## READ_TIMEBASE and WRITE_TIMEBASE (R149) -/

/-- FREE, LOCKED, HOLDOVER by position, then the locked input or absent (R183). -/
def modeBytes : TimebaseMode → List Byte
  | .free => be8 0 ++ be8 255
  | .locked i => be8 1 ++ be8 (inputCode i)
  | .holdover => be8 2 ++ be8 255

/-- One input as READ_TIMEBASE returns it (R149, R183). -/
def inputBytes (x : RefInput) : List Byte :=
  be8 x.qual.code ++ be8 x.goodSeconds ++
    (match x.lastSecond with | some l => be8 1 ++ be32 l | none => be8 0 ++ be32 0) ++
    be8 x.missed ++ beFlag x.message.isSome ++ be16 x.glitches ++ be16 x.messageErrors

/-- The answer to READ_TIMEBASE (R149; log 16). -/
def timebaseBytes (s : State) : List Byte :=
  let tb := s.timebase
  modeBytes tb.mode ++ beFlag tb.firstPending ++ beFlag tb.timeKnown ++ beGrid tb.localTime ++
    beTimer s.elapsed tb.holdoverTimer ++ be8 (inputCode tb.preferred) ++ beFlag tb.revert ++ be16 tb.holdoverLimit ++
    inputBytes tb.inputA ++ inputBytes tb.inputB

/-- READ_TIMEBASE (R149). -/
def handleReadTimebase (r : Request) : State → State :=
  withPayload r 0 fun _ s => answerRequest r .ok (timebaseBytes s) s

/-- WRITE_TIMEBASE (R149). -/
def handleWriteTimebase (r : Request) : State → State :=
  withPayload r 4 fun p => withValue r (timebaseConfigOf p) fun c s =>
    answerRequest r .ok []
      { s with timebase := { s.timebase with preferred := c.1, revert := c.2.1, holdoverLimit := c.2.2 } }

end Sys2Proof.Machine
end

