-- ==== Sys2Proof/Machine/Egress.lean ====
section
/-! DEFINITION. The Egress Arbiters (sections 9.3 to 9.5): the choice of a center link, answers, set fragments, notice
frames and pass-through frames on it, and the ends of their transmissions. -/

namespace Sys2Proof.Machine

/-- What a center link has in transmission changes. -/
def setTx (c : CenterId) (t : Option Transmission) (s : State) : State := s.setCenter c { s.center c with tx := t }

/-! ## Beginning a frame (R172-R174) -/

/-- An answer frame begins; the answer leaves its queue (R171, R172). -/
def beginAnswer (c : CenterId) (a : Answer) (rest : List Answer) (s : State) : State :=
  s.setCenter c { s.center c with
    answers := rest, tx := some (.answer (ownFrame s a.destination 3 (answerContent s.unitNumber a))) }

/-- Fragment i of a set begins, for a destination read at the set's first fragment (R173). -/
def beginFragment (c : CenterId) (k : StreamNo) (a : AlignedSet) (i destination : Nat) (s : State) : State :=
  setTx c (some (.fragment k i destination (ownFrame s destination 4 (fragmentContent k a i)))) s

/-- A notice frame begins: up to 8 notices leave with the overflow flag, each acting on its latch (R154, R160, R174). -/
def beginNotices (c : CenterId) (s : State) : State :=
  let taken := s.notices.queue.take Config.noticesPerFrame
  let frame := ownFrame s s.globals.noticeDestination 5 (noticeContent taken s.notices.overflow)
  let s := { s with notices := { s.notices with
    queue := s.notices.queue.drop Config.noticesPerFrame, overflow := false } }
  setTx c (some (.notices frame)) (taken.foldl (fun s m => departNotice m s) s)

/-- A pass-through frame begins, as it was received (R169, R172). -/
def beginPassThrough (c : CenterId) (bytes : List Byte) (rest : List (List Byte)) (s : State) : State :=
  setTx c (some (.passThrough bytes)) { s with passThrough := rest }

/-! ## The choice (R171) -/

/-- The stream has a set for a center link. -/
def offersSet (s : State) (c : CenterId) (k : StreamNo) : Bool :=
  (s.stream k).config.link == c && !(s.stream k).run.queue.isEmpty

/-- The stream whose set goes next: the lowest priority value, then the lowest number (R171). -/
def chosenStream (s : State) (c : CenterId) : Option StreamNo :=
  (allStreams.filter (offersSet s c)).foldl (fun best k =>
    match best with
    | none => some k
    | some b => if (s.stream k).config.priority < (s.stream b).config.priority then some k else some b) none

/-- The last two sources: notices on the notice link, then the pass-through queue on the through link (R171). -/
def chooseLast (c : CenterId) (s : State) : State :=
  if s.globals.noticeLink = c ∧ s.notices.queue ≠ [] then beginNotices c s
  else if s.globals.throughLink = c then
    match s.passThrough with
    | b :: rest => beginPassThrough c b rest s
    | [] => s
  else s

/-- The first source in the order of R171 that has something waiting. -/
def chooseSource (c : CenterId) (s : State) : State :=
  match (s.center c).answers with
  | a :: rest => beginAnswer c a rest s
  | [] =>
    match chosenStream s c with
    | some k =>
      match (s.stream k).run.queue with
      | a :: _ => beginFragment c k a 0 (s.stream k).config.destination s
      | [] => s
    | none => chooseLast c s

/-- The choice of a center link: only when it is UP and idle (R171). -/
def choose (c : CenterId) (s : State) : State :=
  if (s.center c).up && (s.center c).tx.isNone then chooseSource c s else s

/-- The end of an event: each idle arbiter with something waiting chooses (R171; log 7). -/
def finish (s : State) : State := choose .c1 (choose .c0 s)

/-! ## Ends of transmissions (R172, R173, R175) -/

/-- An answer, pass-through or notice frame completes (R172, R174). -/
def frameComplete (c : CenterId) (s : State) : State :=
  match (s.center c).tx with
  | some (.answer _) => setTx c none s
  | some (.passThrough _) => setTx c none s
  | some (.notices _) => setTx c none s
  | some (.fragment _ _ _ _) => s
  | none => s

/-- A set fragment completes: the next begins at once, or the set has been sent (R173). -/
def fragmentComplete (c : CenterId) (s : State) : State :=
  match (s.center c).tx with
  | some (.fragment k i destination _) =>
    match (s.stream k).run.queue with
    | a :: rest =>
      if i + 1 < fragmentCount a then beginFragment c k a (i + 1) destination s
      else
        setTx c none (s.setStreamRun k { (s.stream k).run with queue := rest, sent := satInc (s.stream k).run.sent })
    | [] => setTx c none s
  | some (.answer _) => s
  | some (.passThrough _) => s
  | some (.notices _) => s
  | none => s

/-- A transmission is abandoned (R175): a set in transmission leaves its queue with a SET_DISCARDED notice. -/
def abandon (c : CenterId) (s : State) : State :=
  match (s.center c).tx with
  | some (.fragment k _ _ _) =>
    match (s.stream k).run.queue with
    | a :: rest => discardSet k a .link rest (setTx c none s)
    | [] => setTx c none s
  | some (.answer _) => setTx c none s
  | some (.passThrough _) => setTx c none s
  | some (.notices _) => setTx c none s
  | none => s

end Sys2Proof.Machine
end

