-- ==== Sys2Proof/Machine/Links.lean ====
section
/-! DEFINITION. The links (sections 9.1 and 9.2) and the acceptance of requests (R181): link states, reception and
classification of frames. -/

namespace Sys2Proof.Machine

/-! ## Link states (R166, R175) -/

/-- A link comes UP. -/
def linkCameUp (l : LinkId) (s : State) : State :=
  match l with
  | .line l => s.setLine l { s.line l with up := true }
  | .center c => s.setCenter c { s.center c with up := true }

/-- A link goes DOWN; a center link abandons what it transmits. -/
def linkWentDown (l : LinkId) (s : State) : State :=
  match l with
  | .line l => s.setLine l { s.line l with up := false }
  | .center c =>
    let s := abandon c s
    s.setCenter c { s.center c with up := false }

/-! ## Line links (R167-R169) -/

/-- A line link drops a frame at a full queue (R168). -/
def dropOnLine (l : LineId) (s : State) : State :=
  s.setLine l { s.line l with queueDrops := satInc (s.line l).queueDrops }

/-- A line link classifies a frame that passed its check (R168, R169). -/
def classifyLine (l : LineId) (bytes : List Byte) (s : State) : State :=
  if frameType bytes = s.globals.transportType then
    if (s.line l).queue.length < Config.receiveCapacity then
      s.setLine l { s.line l with queue := (s.line l).queue ++ [⟨bytes, s.localTime⟩] }
    else dropOnLine l s
  else if s.passThrough.length < Config.passThroughCapacity then { s with passThrough := s.passThrough ++ [bytes] }
  else dropOnLine l s

/-- A line link completes the reception of a frame (R167); a DOWN link receives nothing (R166; log 25). -/
def lineReceived (l : LineId) (bytes : List Byte) (s : State) : State :=
  if !(s.line l).up then s
  else
    let s := s.setLine l { s.line l with received := satInc (s.line l).received }
    if frameOk bytes then classifyLine l bytes s
    else s.setLine l { s.line l with checkFailures := satInc (s.line l).checkFailures }

/-! ## Center links (R170, R181) -/

/-- The link is in the management link mask (R181, Table 10-3). -/
def inMask (g : Globals) : CenterId → Bool
  | .c0 => g.mask0
  | .c1 => g.mask1

/-- The frame is a management request (R170). -/
def isRequestFrame (s : State) (bytes : List Byte) : Bool :=
  frameType bytes == s.globals.transportType && numAt16 (frameContent bytes) 0 == 2

/-- The Management Agent's acceptance takes the request (R181). -/
def accepts (s : State) (c : CenterId) (bytes : List Byte) : Bool :=
  inMask s.globals c && 16 ≤ (frameContent bytes).length &&
    (requestUnit (frameContent bytes) == s.unitNumber ||
      (requestUnit (frameContent bytes) == 0 && (parseRequest c bytes).kind == 1)) &&
    s.inputQueue.length < Config.inputCapacity

/-- A center link completes the reception of a frame (R167, R170); a DOWN link receives nothing (R166; log 25). -/
def centerReceived (c : CenterId) (bytes : List Byte) (s : State) : State :=
  if !(s.center c).up then s
  else
    let s := s.setCenter c { s.center c with received := satInc (s.center c).received }
    if !frameOk bytes then s.setCenter c { s.center c with checkFailures := satInc (s.center c).checkFailures }
    else if isRequestFrame s bytes && accepts s c bytes then
      { s with inputQueue := s.inputQueue ++ [parseRequest c bytes] }
    else s.setCenter c { s.center c with drops := satInc (s.center c).drops }

end Sys2Proof.Machine
end

