-- ==== Sys2Proof/Machine/Management.lean ====
section
/-! DEFINITION. The Management Agent's own requests (chapter 10) and the resets: IDENTIFY, the globals, READ_TIMELINE,
READ_PORT, CLEAR_CONDITIONS, SNAPSHOT, completion limits, RESET_WARM, RESET_COLD, power-on and the reset pin. -/

namespace Sys2Proof.Machine

/-! ## IDENTIFY and the globals (R185, R186) -/

/-- The identity: unit number, revision 1, the capacities of R185. -/
def identityBytes (s : State) : List Byte :=
  be32 s.unitNumber ++ be16 1 ++ [4, 2, 1024, 512, 16384, 8, 4096, 16, 256, 4].flatMap be16

/-- IDENTIFY (R185). -/
def handleIdentify (r : Request) : State → State :=
  withPayload r 0 fun _ s => answerRequest r .ok (identityBytes s) s

/-- READ_GLOBAL (R186). -/
def handleReadGlobal (r : Request) : State → State :=
  withPayload r 0 fun _ s => answerRequest r .ok (globalsBytes s.globals) s

/-- WRITE_GLOBAL (R186). -/
def handleWriteGlobal (r : Request) : State → State :=
  withPayload r 9 fun p => withValue r (globalsOf p) fun g s => answerRequest r .ok [] { s with globals := g }

/-! ## READ_TIMELINE (R83) -/

/-- The summary of the Timeline and the Report Store. -/
def timelineSummary (s : State) : List Byte :=
  be16 s.timeline.length ++ be16 s.freeSlots ++ be16 s.forcedCloses ++ be16 s.storeDiscards ++
    beGridOr (s.timeline.head?.map (·.instant)) ++ beGridOr (s.timeline.getLast?.map (·.instant))

/-- A window's state by Table 4-2, its awaited count, deadline, close cause and late-arrival count. -/
def windowBytes (w : Window) : List Byte :=
  be8 (match w.state with | .notUsed => 0 | .opened => 1 | .ready _ => 2 | .closed _ => 3) ++
    be16 w.awaited.length ++ beGridOr w.deadline ++
    be8 (match w.state with | .closed why => why.code | .notUsed => 255 | .opened => 255 | .ready _ => 255) ++ be16 w.late

/-- A record report. -/
def recordBytes (r : Record) : List Byte :=
  be8 (match r.cause with | .schedule => 0 | .arrival => 1) ++ be16 r.arrivals.length ++
    allStreams.flatMap (fun k => windowBytes r.windows[k])

/-- The mark after the summary, and the record report of a named instant that has a record (R83, R183). -/
def markBytes (s : State) : Option GridTime → List Byte
  | none => be8 0
  | some t =>
    match recordAt s t with
    | none => be8 1
    | some r => be8 2 ++ recordBytes r

/-- READ_TIMELINE (R83); its payload is empty or one instant time (R184). -/
def handleReadTimeline (r : Request) : State → State :=
  if r.payloadLength = 0 then
    withPayload r 0 fun _ s => answerRequest r .ok (timelineSummary s ++ markBytes s none) s
  else
    withPayload r 8 fun p => withValue r (gridAt p 0) fun t s =>
      answerRequest r .ok (timelineSummary s ++ markBytes s (some t)) s

/-! ## READ_PORT (R177) -/

/-- UP is 0 and DOWN is 1, by position (R183; log 16). -/
def beUp (up : Bool) : List Byte := if up then be8 0 else be8 1

/-- A line link as READ_PORT returns it. -/
def lineBytes (x : LineLink) : List Byte :=
  beUp x.up ++ be16 x.received ++ be16 x.checkFailures ++ be16 x.queueDrops ++ be8 x.queue.length ++ beFlag x.latchSet ++
    (match x.latchCode with | some code => be8 1 ++ be16 code | none => be8 0 ++ be16 0)

/-- A center link as READ_PORT returns it. -/
def centerBytes (s : State) (c : CenterId) : List Byte :=
  let x := s.center c
  beUp x.up ++ be16 x.received ++ be16 x.checkFailures ++ be16 x.drops ++ be8 x.answers.length ++
    be8 (if s.globals.throughLink = c then s.passThrough.length else 255)

/-- The contents of READ_PORT for a target, none when the target names no link (R184). -/
def portBytes (s : State) (target : Nat) : Option (List Byte) :=
  if h : target < 4 then some (lineBytes (s.line ⟨target, h⟩))
  else if target = 4 then some (centerBytes s .c0)
  else if target = 5 then some (centerBytes s .c1)
  else none

/-- READ_PORT (R177). -/
def handleReadPort (r : Request) : State → State :=
  withPayload r 0 fun _ s =>
    match portBytes s r.target with
    | some bytes => answerRequest r .ok bytes s
    | none => refuse r .badTarget s

/-! ## CLEAR_CONDITIONS (R155, R187) -/

/-- A mask names a condition (R183). -/
def maskHas (mask : Nat) (c : Condition) : Bool := mask / 2 ^ c.code % 2 == 1

/-- Clears the latches of a station that a mask names, in the order of Table 8-1 (R155). -/
def clearStation (n : StationNo) (mask : Nat) (s : State) : State :=
  ([.late, .offGrid, .short, .silent, .suspectTime] : List Condition).foldl
    (fun s c => if maskHas mask c then clearLatch n c s else s) s

/-- CLEAR_CONDITIONS (R155, R187). -/
def handleClearConditions (r : Request) : State → State :=
  withPayload r 2 fun p s =>
    let mask := byteAt p 1
    if byteAt p 0 = 1 then
      withStation r (fun n s =>
        if mask < 32 then answerRequest r .ok [] (clearStation n mask s) else refuse r .badRequest s) s
    else if byteAt p 0 = 2 then
      if h : r.target < 4 then
        if mask = 0 then answerRequest r .ok [] s
        else if mask = 32 then answerRequest r .ok [] (clearUnknownCode ⟨r.target, h⟩ s)
        else refuse r .badRequest s
      else refuse r .badTarget s
    else refuse r .badTarget s

/-! ## SNAPSHOT (R165, R187) -/

/-- The subject of a SNAPSHOT: STATION, STREAM or TIMEBASE, none when it is absent (R187). -/
def snapSubject (kind target : Nat) : Option SnapSubject :=
  if kind = 1 then (if h : target < 1024 then some (.station ⟨target, h⟩) else none)
  else if kind = 3 then (if h : target < 8 then some (.stream ⟨target, h⟩) else none)
  else if kind = 4 then some .timebase
  else none

/-- The five latch states, one bit each (Table 9-9), 1 for SET (log 16). -/
def latchBits (l : PerCondition Latch) : Nat :=
  (if l.late.set then 1 else 0) + (if l.offGrid.set then 2 else 0) + (if l.short.set then 4 else 0) +
    (if l.silent.set then 8 else 0) + (if l.suspectTime.set then 16 else 0)

/-- The 32 bytes of a SNAPSHOT extension (Tables 8-5 and 9-9; set or cleared and yes or no: log 16). -/
def snapshotBytes (s : State) : SnapSubject → List Byte
  | .station n =>
    let x := s.station n
    be16 x.config.code ++ be8 x.run.state.code ++ be8 (returnCode x.run.returnState) ++ be8 x.run.goodCount ++
      be8 x.run.confirmations ++ be8 (latchBits x.run.latches) ++ be8 0 ++ beCounters x.run.counters ++ be16 0 ++
      be32 x.run.estimate ++ beTimer s.elapsed x.run.acqTimer ++ beTimer s.elapsed x.run.silenceTimer ++ be32 0
  | .stream k =>
    let x := (s.stream k).run
    be8 x.state.code ++ be8 x.queue.length ++ be16 (openCount s k) ++ be16 (readyCount s k) ++ be16 0 ++ beGrid x.floor ++
      be32 x.nextSeq ++ be16 x.built ++ be16 x.sent ++ be16 x.discarded ++ be16 x.forced ++ be32 0
  | .timebase =>
    let tb := s.timebase
    be8 tb.mode.code ++ beFlag tb.timeKnown ++ beFlag tb.firstPending ++ be8 0 ++ beGrid tb.localTime ++
      beTimer s.elapsed tb.holdoverTimer ++ be8 tb.inputA.qual.code ++ be8 tb.inputA.goodSeconds ++
      be8 tb.inputB.qual.code ++ be8 tb.inputB.goodSeconds ++ be32 0 ++ be32 0 ++ be32 0

/-- SNAPSHOT (R165, R187). -/
def handleSnapshot (r : Request) : State → State :=
  withPayload r 1 fun p s =>
    match snapSubject (byteAt p 0) r.target with
    | none => refuse r .badTarget s
    | some x =>
      if s.notices.queue.length < Config.noticeCapacity then
        answerRequest r .ok [] (pushNotice (.snapshot x r.tag (snapshotBytes s x)) s)
      else refuse r .queueFull s

/-! ## Invalid kinds and completion limits (R184, R190) -/

/-- A request kind outside 1-26, or a WAIT flag other than 0 or 1 (R184 check 1). -/
def handleBadKind (r : Request) : State → State := refuse r .badRequest

/-- The completion limit of a held slot expires (R190). -/
def limitExpired (d : SlotNo) (s : State) : State :=
  match s.slot d with
  | none => s
  | some h => endSlot d .timedOut [] (s.runClockTo h.limit)

/-! ## Resets (R178, R191, R192 and the reset rules of each chapter) -/

/-- A stream context keeps its configuration and takes the reset values of Table 5-2 (R86, R87, R131). -/
def Stream.warm (x : Stream) : Stream := { x with run := .reset }

/-- A descriptor keeps its configuration and its run state is cleared (R65). -/
def Station.warm (x : Station) : Station :=
  { x with run := .cleared (if x.config.enable then .awaiting else .disabled) }

/-- A line link keeps all but its UNKNOWN_CODE latch (R151, R178). -/
def LineLink.warm (x : LineLink) : LineLink := { x with latchSet := false, latchPending := none, latchCode := none }

/-- A held slot is answered ABORTED (R191); the stream or the station it names has been reset already. -/
def abortSlot (s : State) (d : SlotNo) : State :=
  match s.slot d with
  | none => s
  | some h => placeAnswer h.link ⟨h.source, h.tag, h.kind, h.target, .aborted, []⟩ (s.setSlot d none)

/-- RESET_WARM, steps 1 to 3 of R191: what is in transmission completes, every block takes its warm values, the held slots
are answered. -/
def warmReset (s : State) : State :=
  allSlots.foldl abortSlot
    { s with
      center0 := { s.center0 with tx := none }
      center1 := { s.center1 with tx := none }
      stations := mapVec Station.warm s.stations
      codeMap := codesOfEnabled s.stations
      streams := mapVec Stream.warm s.streams
      timeline := []
      freeSlots := Config.slotCapacity
      forcedCloses := 0
      storeDiscards := 0
      notices := { s.notices with queue := [], overflow := false }
      lines := mapVec LineLink.warm s.lines }

/-- RESET_WARM (R191). -/
def handleResetWarm (r : Request) : State → State :=
  withPayload r 0 fun _ s => answerRequest r .ok [] (warmReset s)

/-- A line link at power-on: all but its state (R166, R176, R178). -/
def LineLink.cold (x : LineLink) : LineLink := { LineLink.reset with up := x.up }

/-- A center link at power-on: all but its state (R166, R176, R178). -/
def CenterLink.cold (x : CenterLink) : CenterLink := { CenterLink.reset with up := x.up }

/-- Steps 1 and 2 of RESET_COLD (R192): every block takes its power-on values. The link states (R166) and the unit number
(R181) are kept, the oscillator and the latency period run on (R10, R59), and so does the idle time of each message line, for
which the receiver waits (R150, R180). -/
def coldReset (s : State) : State :=
  { State.reset with
    pending := s.pending
    elapsed := s.elapsed
    quietA := s.quietA
    quietB := s.quietB
    unitNumber := s.unitNumber
    latencyEnd := s.latencyEnd
    notices := ⟨[], false, s.notices.serial⟩
    lines := mapVec LineLink.cold s.lines
    center0 := s.center0.cold
    center1 := s.center1.cold }

/-- RESET_COLD (R192). -/
def handleResetCold (r : Request) : State → State :=
  withPayload r 0 fun _ s => answerRequest r .ok [] (coldReset s)

/-- Power-on, and the reset pin (R192): the same values, with what was in transmission lost, and a latency period that starts
(R59; log 22). -/
def powerOnReset (s : State) : State := { coldReset s with latencyEnd := Config.latencyPeriod + s.elapsed }

end Sys2Proof.Machine
end

