-- ==== Sys2Proof/Machine/Commands.lean ====
section
/-! DEFINITION. The commands: one meaning for each row of the opcode table. An event runs the clock by its gap, acts, and
ends with the choices of the Egress Arbiters; a time-driven event runs the clock to its own moment itself. -/

namespace Sys2Proof.Machine

/-- What a command answers. -/
abbrev Answered := Host.Outcome State Fault Refusal

/-- An event: the clock runs on by `gap`, the event acts, and the idle arbiters choose (R171; logs 1 and 7). -/
def event (gap : Nat) (act : State → State) (s : State) : Answered :=
  .next (finish (act (s.runClock gap)))

/-- A time-driven event, which runs the clock to its own moment (log 1). -/
def timed (act : State → State) (s : State) : Answered := .next (finish (act s))

/-- A request that the Management Agent takes (R182). -/
def request (gap : Nat) (row : Bool) (r : Request) (handle : Request → State → State) (s : State) : Answered :=
  event gap (takeRequest row r (handle r)) s

/-- A station's acquisition timer runs out; a stopped timer does not (R46; log 3). -/
def acquisitionTimer (n : StationNo) (s : State) : State :=
  match (s.station n).run.acqTimer with
  | none => s
  | some t => acquisitionExpired n (s.runClockTo t)

/-- A station's silence timer runs out; a stopped timer does not (R49; log 3). -/
def silenceTimerEnd (n : StationNo) (s : State) : State :=
  match (s.station n).run.silenceTimer with
  | none => s
  | some t => silenceExpired n (s.runClockTo t)

/-- POWER_ON (R192). -/
def execPowerOn (gap : Nat) (s : State) : Answered := event gap powerOnReset s

/-- RESET_PIN_ASSERTED (R192). -/
def execResetPinAsserted (gap : Nat) (s : State) : Answered := event gap powerOnReset s

/-- LINK_UP (R166). -/
def execLinkUp (gap : Nat) (link : LinkId) (s : State) : Answered := event gap (linkCameUp link) s

/-- LINK_DOWN (R166, R175). -/
def execLinkDown (gap : Nat) (link : LinkId) (s : State) : Answered := event gap (linkWentDown link) s

/-- LINE_FRAME_RECEIVED (R167, R168). -/
def execLineFrameReceived (gap : Nat) (l : LineId) (bytes : List Byte) (s : State) : Answered :=
  event gap (lineReceived l bytes) s

/-- CENTER_FRAME_RECEIVED (R167, R170, R181). -/
def execCenterFrameReceived (gap : Nat) (c : CenterId) (bytes : List Byte) (s : State) : Answered :=
  event gap (centerReceived c bytes) s

/-- REPORT_INTAKE (R15, R16). -/
def execReportIntake (gap : Nat) (s : State) : Answered := event gap intake s

/-- MARKER (R133-R135). -/
def execMarker (gap : Nat) (i : InputId) (s : State) : Answered := event gap (marker i) s

/-- TIME_MESSAGE (R132, R180). -/
def execTimeMessage (gap : Nat) (i : InputId) (bytes : LineBytes) (s : State) : Answered := event gap (receiveBytes i bytes) s

/-- WINDOW_END (R136). -/
def execWindowEnd (i : InputId) (s : State) : Answered := timed (windowEnd i) s

/-- ACQUISITION_TIMER_EXPIRY (R46). -/
def execAcquisitionTimerExpiry (n : StationNo) (s : State) : Answered := timed (acquisitionTimer n) s

/-- SILENCE_TIMER_EXPIRY (R49). -/
def execSilenceTimerExpiry (n : StationNo) (s : State) : Answered := timed (silenceTimerEnd n) s

/-- LATENCY_PERIOD_END (R59). -/
def execLatencyPeriodEnd (s : State) : Answered := timed latencyPeriodOver s

/-- HOLDOVER_TIMER_EXPIRY (R143). -/
def execHoldoverTimerExpiry (s : State) : Answered := timed holdoverExpired s

/-- COMPLETION_LIMIT_EXPIRY (R190). -/
def execCompletionLimitExpiry (d : SlotNo) (s : State) : Answered := timed (limitExpired d) s

/-- DEADLINE_EXPIRY (R104). -/
def execDeadlineExpiry (t : GridTime) (k : StreamNo) (s : State) : Answered := timed (deadlineReached t k) s

/-- SCHEDULE_POINT (R97). -/
def execSchedulePoint (k : StreamNo) (s : State) : Answered := timed (schedulePoint k) s

/-- FRAME_TRANSMISSION_COMPLETE (R172). -/
def execFrameTransmissionComplete (gap : Nat) (c : CenterId) (s : State) : Answered := event gap (frameComplete c) s

/-- SET_FRAGMENT_COMPLETE (R173). -/
def execSetFragmentComplete (gap : Nat) (c : CenterId) (s : State) : Answered := event gap (fragmentComplete c) s

/-- IDENTIFY (R185). -/
def execIdentify (gap : Nat) (r : Request) (s : State) : Answered :=
  request gap (requestIs 1 r) r handleIdentify s

/-- READ_GLOBAL (R186). -/
def execReadGlobal (gap : Nat) (r : Request) (s : State) : Answered :=
  request gap (requestIs 2 r) r handleReadGlobal s

/-- WRITE_GLOBAL (R186). -/
def execWriteGlobal (gap : Nat) (r : Request) (s : State) : Answered :=
  request gap (requestIs 3 r) r handleWriteGlobal s

/-- READ_STATION (R39). -/
def execReadStation (gap : Nat) (r : Request) (s : State) : Answered :=
  request gap (requestIs 4 r) r handleReadStation s

/-- WRITE_STATION (R38). -/
def execWriteStation (gap : Nat) (r : Request) (s : State) : Answered :=
  request gap (requestIs 5 r) r handleWriteStation s

/-- EXCHANGE_STATION (R62, R63). -/
def execExchangeStation (gap : Nat) (r : Request) (s : State) : Answered :=
  request gap (requestIs 6 r) r handleExchangeStation s

/-- ENABLE_STATION (R41). -/
def execEnableStation (gap : Nat) (r : Request) (s : State) : Answered :=
  request gap (requestIs 7 r) r handleEnableStation s

/-- DISABLE_STATION (R42). -/
def execDisableStation (gap : Nat) (r : Request) (s : State) : Answered :=
  request gap (requestIs 8 r) r handleDisableStation s

/-- ADMIT_STATION (R47). -/
def execAdmitStation (gap : Nat) (r : Request) (s : State) : Answered :=
  request gap (requestIs 9 r) r handleAdmitStation s

/-- ACCEPT_SHAPE (R56). -/
def execAcceptShape (gap : Nat) (r : Request) (s : State) : Answered :=
  request gap (requestIs 10 r) r handleAcceptShape s

/-- READ_COUNTERS (R159). -/
def execReadCounters (gap : Nat) (r : Request) (s : State) : Answered :=
  request gap (requestIs 11 r) r handleReadCounters s

/-- CLEAR_CONDITIONS (R155). -/
def execClearConditions (gap : Nat) (r : Request) (s : State) : Answered :=
  request gap (requestIs 12 r) r handleClearConditions s

/-- READ_STREAM (R88). -/
def execReadStream (gap : Nat) (r : Request) (s : State) : Answered :=
  request gap (requestIs 13 r) r handleReadStream s

/-- WRITE_STREAM (R88). -/
def execWriteStream (gap : Nat) (r : Request) (s : State) : Answered :=
  request gap (requestIs 14 r) r handleWriteStream s

/-- START_STREAM (R90, R91). -/
def execStartStream (gap : Nat) (r : Request) (s : State) : Answered :=
  request gap (requestIs 15 r) r handleStartStream s

/-- STOP_STREAM with mode DRAIN (R92). -/
def execStopStreamDrain (gap : Nat) (r : Request) (s : State) : Answered :=
  request gap (isStopDrain r) r handleStopDrain s

/-- STOP_STREAM with mode CUT (R93). -/
def execStopStreamCut (gap : Nat) (r : Request) (s : State) : Answered :=
  request gap (isStopCut r) r handleStopCut s

/-- READ_PLAN (R120). -/
def execReadPlan (gap : Nat) (r : Request) (s : State) : Answered :=
  request gap (requestIs 17 r) r handleReadPlan s

/-- WRITE_PLAN (R118, R119). -/
def execWritePlan (gap : Nat) (r : Request) (s : State) : Answered :=
  request gap (requestIs 18 r) r handleWritePlan s

/-- READ_TIMELINE (R83). -/
def execReadTimeline (gap : Nat) (r : Request) (s : State) : Answered :=
  request gap (requestIs 19 r) r handleReadTimeline s

/-- READ_TIMEBASE (R149). -/
def execReadTimebase (gap : Nat) (r : Request) (s : State) : Answered :=
  request gap (requestIs 20 r) r handleReadTimebase s

/-- WRITE_TIMEBASE (R149). -/
def execWriteTimebase (gap : Nat) (r : Request) (s : State) : Answered :=
  request gap (requestIs 21 r) r handleWriteTimebase s

/-- READ_PORT (R177). -/
def execReadPort (gap : Nat) (r : Request) (s : State) : Answered :=
  request gap (requestIs 22 r) r handleReadPort s

/-- SNAPSHOT (R165). -/
def execSnapshot (gap : Nat) (r : Request) (s : State) : Answered :=
  request gap (requestIs 23 r) r handleSnapshot s

/-- FLUSH (R110). -/
def execFlush (gap : Nat) (r : Request) (s : State) : Answered :=
  request gap (requestIs 24 r) r handleFlush s

/-- RESET_WARM (R191). -/
def execResetWarm (gap : Nat) (r : Request) (s : State) : Answered :=
  request gap (requestIs 25 r) r handleResetWarm s

/-- RESET_COLD (R192). -/
def execResetCold (gap : Nat) (r : Request) (s : State) : Answered :=
  request gap (requestIs 26 r) r handleResetCold s

/-- MESSAGE_CUT_SHORT (R132, R180; log 19). -/
def execMessageCutShort (gap : Nat) (i : InputId) (s : State) : Answered := event gap (receiveByte i 0xA5 false) s

/-- A request with an invalid kind or WAIT flag (R184). -/
def execBadRequestKind (gap : Nat) (r : Request) (s : State) : Answered :=
  request gap (!requestKindOk r) r handleBadKind s

/-- STOP_STREAM with another mode (R94). -/
def execStopStreamBadMode (gap : Nat) (r : Request) (s : State) : Answered :=
  request gap (isStopBadMode r) r handleStopBadMode s

end Sys2Proof.Machine
end

