-- ==== Sys2Proof/Machine/Dispatch.lean ====
section
/-! DEFINITION. One arm per command. -/

namespace Sys2Proof.Machine

/-- The effect of a command on everything but the queue. -/
def exec (i : Instr) (s : State) : Host.Outcome State Fault Refusal :=
  match i with
  | .powerOn gap => Sys2Proof.Machine.execPowerOn gap s
  | .resetPinAsserted gap => Sys2Proof.Machine.execResetPinAsserted gap s
  | .linkUp gap link => Sys2Proof.Machine.execLinkUp gap link s
  | .linkDown gap link => Sys2Proof.Machine.execLinkDown gap link s
  | .lineFrameReceived gap l bytes => Sys2Proof.Machine.execLineFrameReceived gap l bytes s
  | .centerFrameReceived gap c bytes => Sys2Proof.Machine.execCenterFrameReceived gap c bytes s
  | .reportIntake gap => Sys2Proof.Machine.execReportIntake gap s
  | .marker gap input => Sys2Proof.Machine.execMarker gap input s
  | .timeMessage gap input bytes => Sys2Proof.Machine.execTimeMessage gap input bytes s
  | .windowEnd input => Sys2Proof.Machine.execWindowEnd input s
  | .acquisitionTimerExpiry n => Sys2Proof.Machine.execAcquisitionTimerExpiry n s
  | .silenceTimerExpiry n => Sys2Proof.Machine.execSilenceTimerExpiry n s
  | .latencyPeriodEnd => Sys2Proof.Machine.execLatencyPeriodEnd s
  | .holdoverTimerExpiry => Sys2Proof.Machine.execHoldoverTimerExpiry s
  | .completionLimitExpiry d => Sys2Proof.Machine.execCompletionLimitExpiry d s
  | .deadlineExpiry t k => Sys2Proof.Machine.execDeadlineExpiry t k s
  | .schedulePoint k => Sys2Proof.Machine.execSchedulePoint k s
  | .frameTransmissionComplete gap c => Sys2Proof.Machine.execFrameTransmissionComplete gap c s
  | .setFragmentComplete gap c => Sys2Proof.Machine.execSetFragmentComplete gap c s
  | .identify gap r => Sys2Proof.Machine.execIdentify gap r s
  | .readGlobal gap r => Sys2Proof.Machine.execReadGlobal gap r s
  | .writeGlobal gap r => Sys2Proof.Machine.execWriteGlobal gap r s
  | .readStation gap r => Sys2Proof.Machine.execReadStation gap r s
  | .writeStation gap r => Sys2Proof.Machine.execWriteStation gap r s
  | .exchangeStation gap r => Sys2Proof.Machine.execExchangeStation gap r s
  | .enableStation gap r => Sys2Proof.Machine.execEnableStation gap r s
  | .disableStation gap r => Sys2Proof.Machine.execDisableStation gap r s
  | .admitStation gap r => Sys2Proof.Machine.execAdmitStation gap r s
  | .acceptShape gap r => Sys2Proof.Machine.execAcceptShape gap r s
  | .readCounters gap r => Sys2Proof.Machine.execReadCounters gap r s
  | .clearConditions gap r => Sys2Proof.Machine.execClearConditions gap r s
  | .readStream gap r => Sys2Proof.Machine.execReadStream gap r s
  | .writeStream gap r => Sys2Proof.Machine.execWriteStream gap r s
  | .startStream gap r => Sys2Proof.Machine.execStartStream gap r s
  | .stopStreamDrain gap r => Sys2Proof.Machine.execStopStreamDrain gap r s
  | .stopStreamCut gap r => Sys2Proof.Machine.execStopStreamCut gap r s
  | .readPlan gap r => Sys2Proof.Machine.execReadPlan gap r s
  | .writePlan gap r => Sys2Proof.Machine.execWritePlan gap r s
  | .readTimeline gap r => Sys2Proof.Machine.execReadTimeline gap r s
  | .readTimebase gap r => Sys2Proof.Machine.execReadTimebase gap r s
  | .writeTimebase gap r => Sys2Proof.Machine.execWriteTimebase gap r s
  | .readPort gap r => Sys2Proof.Machine.execReadPort gap r s
  | .snapshot gap r => Sys2Proof.Machine.execSnapshot gap r s
  | .flush gap r => Sys2Proof.Machine.execFlush gap r s
  | .resetWarm gap r => Sys2Proof.Machine.execResetWarm gap r s
  | .resetCold gap r => Sys2Proof.Machine.execResetCold gap r s
  | .messageCutShort gap input => Sys2Proof.Machine.execMessageCutShort gap input s
  | .badRequestKind gap r => Sys2Proof.Machine.execBadRequestKind gap r s
  | .stopStreamBadMode gap r => Sys2Proof.Machine.execStopStreamBadMode gap r s

end Sys2Proof.Machine
end

