-- ==== Sys2Proof/Safety.lean ====
section
/-! DEFINITION. The vocabulary of the statements: when a request is taken, what power-on leaves, and the invariants that every
step keeps. -/

namespace Sys2Proof.Machine

/-! ## Requests -/

/-- The agent takes the request: it is the head of the input queue (R182). -/
def State.offers (s : State) (r : Request) : Prop := s.inputQueue.head? = some r

/-- The state in which the agent handles a request it takes after `gap` ns: the head has left the input queue. -/
def State.taken (s : State) (gap : Nat) : State := { s.runClock gap with inputQueue := s.inputQueue.tail }

/-- A request of a kind, with a legal WAIT flag, whose payload has a length and was delivered (R184 checks 1 and 2). -/
def requestCarries (r : Request) (kind length : Nat) : Prop :=
  r.kind = kind ∧ r.wait ≤ 1 ∧ r.payloadLength = length ∧ length ≤ r.delivered.length

/-- A request of a kind, with a legal WAIT flag, whose payload length is wrong or was not delivered. -/
def requestFailsLength (r : Request) (kind length : Nat) : Prop :=
  r.kind = kind ∧ r.wait ≤ 1 ∧ ¬(r.payloadLength = length ∧ length ≤ r.delivered.length)

/-! ## The frame check -/

/-- One bit enters the check register (R179): the register shifts towards its most significant end, and the generator is added
where the bit that leaves differs from the one that enters. -/
def checkBit (r : BitVec 32) (b : Bool) : BitVec 32 := (r <<< 1) ^^^ (if r.getMsbD 0 ^^ b then 0x04C11DB7#32 else 0#32)

/-- The check of some bytes (R179): the register is preset to all ones, each byte enters least significant bit first, and the
final register is taken with its bit order reflected and is complemented. -/
def checkValue (bytes : List Byte) : Nat :=
  let bits := bytes.flatMap (fun b => (List.range 8).map (fun i => b.getLsbD i))
  (~~~(bits.foldl checkBit 0xFFFFFFFF#32).reverse).toNat

/-! ## Power-on values -/

/-- The value every configuration field of a descriptor has after power-on (Table 3-1). -/
def powerOnStationConfig : StationConfig :=
  { enable := false, code := 0, shape := ⟨0, 0, 0⟩, rate := .r50, snapTol := 20, quality := 7, acquire := 8
    acqLimit := .s30, silence := 2, hold := false, shapeAuto := false, reacquire := false
    enables := ⟨true, true, true, true, true⟩, sens := ⟨.edge, .edge, .edge, .edge, .edge⟩, thresholds := ⟨0, 0, 0⟩ }

/-- The cleared run state of a descriptor, with the state that the clearing gives (Table 3-2). -/
def clearedStationRun (state : StationState) : StationRun :=
  { state := state, returnState := none, pendingShape := none, confirmations := 0, goodCount := 0, lastFresh := none
    acqTimer := none, silenceTimer := none, curMax := 0, prevMax := 0, suspect := false, counters := ⟨0, 0, 0⟩
    latches := ⟨⟨false, none⟩, ⟨false, none⟩, ⟨false, none⟩, ⟨false, none⟩, ⟨false, none⟩⟩, deferrals := [] }

/-- The values of a stream's configuration after power-on (Table 5-1). -/
def powerOnStreamConfig : StreamConfig :=
  { rate := .r10, link := .c0, destination := 0, priority := 0, planBase := 0, planLength := 1, adaptive := false
    fixedWait := 100, floorWait := 20, ceilingWait := 2000, margin := 10, closeOnComplete := true }

/-- The reset values of a stream's run fields (Table 5-2). -/
def clearedStreamRun : StreamRun :=
  { state := .stopped, floor := ⟨0, 0⟩, mark := ⟨0, 0⟩, nextSeq := 0, discontinuity := false, built := 0, sent := 0
    discarded := 0, forced := 0, queue := [], pendingStop := none }

/-- A reference input after power-on (Table 7-1). -/
def powerOnInput : RefInput :=
  { qual := .absent, goodSeconds := 0, lastMarker := none, lastSecond := none, missed := 0, message := none
    glitches := 0, messageErrors := 0, assembly := none }

/-- The Timebase after power-on (Table 7-2). -/
def powerOnTimebase : Timebase :=
  { mode := .free, firstPending := false, holdoverTimer := none, timeKnown := false, preferred := .a, revert := true
    holdoverLimit := 300, localTime := ⟨0, 0⟩, inputA := powerOnInput, inputB := powerOnInput }

/-- The global configuration after power-on (Table 10-3). -/
def powerOnGlobals : Globals :=
  { transportType := 0xB7A2, futureTolerance := 5, noticeLink := .c0, noticeDestination := 0, throughLink := .c1
    mask0 := true, mask1 := true }

/-- The power-on values of every block, over a state that held before: link states, the unit number and the idle times of the
message lines are kept (R166, R180, R181), every table, queue, count and setting takes its reset value (R64, R84, R87, R114,
R131, R150, R163, R178, R192). -/
structure PowerOnValues (before t : State) : Prop where
  stations      : ∀ n, t.station n = ⟨powerOnStationConfig, clearedStationRun .disabled⟩
  codeMap       : t.codeMap = []
  streams       : ∀ k, t.stream k = ⟨powerOnStreamConfig, clearedStreamRun⟩
  plan          : ∀ i : Fin 4096, t.plan[i] = ⟨0, .unused⟩
  timeline      : t.timeline = []
  freeSlots     : t.freeSlots = 16384
  forcedCloses  : t.forcedCloses = 0
  storeDiscards : t.storeDiscards = 0
  timebase      : t.timebase = powerOnTimebase
  notices       : t.notices.queue = [] ∧ t.notices.overflow = false
  lines         : ∀ l, t.line l =
    { up := (before.line l).up, received := 0, checkFailures := 0, queueDrops := 0, queue := [], latchSet := false
      latchPending := none, latchCode := none }
  centers       : ∀ c, t.center c =
    { up := (before.center c).up, received := 0, checkFailures := 0, drops := 0, answers := [], tx := none }
  passThrough   : t.passThrough = []
  pointer       : t.pointer = 3
  inputQueue    : t.inputQueue = []
  slots         : ∀ d, t.slot d = none
  quiet         : ∀ i, t.quiet i = before.quiet i
  globals       : t.globals = powerOnGlobals
  unitNumber    : t.unitNumber = before.unitNumber

/-! ## What a forward setting reaches (R11) -/

/-- The OPEN window of stream k in the record of instant i has a deadline d that local time has reached. -/
def deadlineDue (s : State) (i : GridTime) (k : StreamNo) (d : GridTime) : Prop :=
  ∃ q ∈ s.timeline, q.instant = i ∧ q.windows[k].state = .opened ∧ q.windows[k].deadline = some d ∧
    earlier s.localTime d = false

/-- Stream k is RUNNING and local time has reached its schedule point t. -/
def pointDue (s : State) (k : StreamNo) (t : GridTime) : Prop :=
  (s.stream k).run.state = .running ∧ nextInstant (s.stream k).config.rate (s.stream k).run.mark = some t ∧
    earlier s.localTime t = false

/-- No deadline and no schedule point that local time has reached is earlier than t. -/
def noneDueBefore (s : State) (t : GridTime) : Prop :=
  (∀ i k d, deadlineDue s i k d → earlier d t = false) ∧ (∀ k u, pointDue s k u → earlier u t = false)

/-- From s the device takes, one after another, an earliest of the deadlines and schedule points that local time has reached,
until none is left; it then stands in t (R11, R97). Which of two that fall together is taken first is left open. -/
inductive TakesDue : State → State → Prop where
  | done (s : State) (deadlines : ∀ i k d, ¬deadlineDue s i k d) (points : ∀ k t, ¬pointDue s k t) : TakesDue s s
  | deadline (s t : State) (i : GridTime) (k : StreamNo) (d : GridTime) (due : deadlineDue s i k d)
      (first : noneDueBefore s d) (rest : TakesDue (expireDeadline i k s) t) : TakesDue s t
  | point (s t : State) (k : StreamNo) (i : GridTime) (due : pointDue s k i) (first : noneDueBefore s i)
      (rest : TakesDue (reachSchedule k i s) t) : TakesDue s t

/-! ## Invariants -/

/-- The Timebase is consistent (R132, R136, R138, R139, R141, Tables 7-1 and 7-2): the locked input is QUALIFIED, no input is
QUALIFIED outside LOCKED, TIME_KNOWN is set in LOCKED and HOLDOVER, the holdover timer runs exactly in HOLDOVER, a first
setting is pending only in LOCKED, and each input's fields lie in their ranges, with nothing kept in ABSENT. -/
structure TimebaseOk (tb : Timebase) : Prop where
  locked   : ∀ i, tb.mode = .locked i → (tb.input i).qual = .qualified
  unlocked : ∀ i, (tb.input i).qual = .qualified → ∃ j, tb.mode = .locked j
  known    : tb.mode ≠ .free → tb.timeKnown = true
  holdover : tb.holdoverTimer.isSome = true ↔ tb.mode = .holdover
  first    : tb.firstPending = true → ∃ i, tb.mode = .locked i
  good     : ∀ i, (tb.input i).goodSeconds ≤ 8
  missed   : ∀ i, (tb.input i).missed ≤ 2
  absent   : ∀ i, (tb.input i).qual = .absent →
    (tb.input i).lastMarker = none ∧ (tb.input i).lastSecond = none ∧ (tb.input i).missed = 0

/-- Every queue lies within its capacity (Table 0-2). -/
structure WithinCapacity (s : State) : Prop where
  records     : s.timeline.length ≤ 512
  notices     : s.notices.queue.length ≤ 256
  requests    : s.inputQueue.length ≤ 4
  passThrough : s.passThrough.length ≤ 64
  received    : ∀ l, (s.line l).queue.length ≤ 32
  answers     : ∀ c, (s.center c).answers.length ≤ 8
  sets        : ∀ k, (s.stream k).run.queue.length ≤ 16

/-- The Code Map holds exactly the codes of the descriptors that are not DISABLED, each once (R40), and the enable field is
set exactly in those (Table 3-1). -/
structure CodeMapOk (s : State) : Prop where
  enable : ∀ n, (s.station n).config.enable = true ↔ (s.station n).run.state ≠ .disabled
  sorted : s.codeMap.Pairwise (fun a b => a.1 < b.1)
  lookup : ∀ code n, codeLookup s.codeMap code = some n ↔
    (s.station n).run.state ≠ .disabled ∧ (s.station n).config.code = code

/-- The number of held report slots: one for each arrival-map entry (R70). -/
def heldSlots (s : State) : Nat := (s.timeline.map (fun r => r.arrivals.length)).sum

/-- The Timeline is ordered by instant time with no instant twice (R66), every arrival map has at most one entry for a
station (R69), and the free and the held report slots are 16,384 together (R70). -/
structure StoreOk (s : State) : Prop where
  ordered : s.timeline.Pairwise (fun a b => earlier a.instant b.instant = true)
  keyed   : ∀ r ∈ s.timeline, r.arrivals.Pairwise (fun a b => a.1 < b.1)
  slots   : s.freeSlots + heldSlots s = 16384

end Sys2Proof.Machine
end

