-- ==== Sys2Proof/Certificates/Slice0/Obligations.lean ====
section
/-! DEFINITION. The statements for the provers. Most name the whole next state: what a command writes stands in the record
update, and everything else is as it was, so each is its own frame. `finish` is the choice of the Egress Arbiters at the end of
every command (R171, log 7), stated apart in `EgressChoiceTakesTheFirstSource`. -/

open Sys2Proof Sys2Proof.Machine

/-! ## The step and the resets -/

/-- A step runs the command at the front of the queue on the state with the queue's rest, and idles on an empty queue. The
queue, and the idle step, are the model's (log 1). -/
def Obligations.StepRunsTheFrontCommand : Prop :=
  ∀ (c : Instr) (rest : List Instr) (s : State),
    step { s with pending := c :: rest } = exec c { s with pending := rest } ∧
      step { s with pending := [] } = .next { s with pending := [] }

/-- Power-on and the reset pin give every block its power-on values; nothing is waiting to be sent, so the arbiters begin
nothing. The link states and the unit number are kept (R166, R181); elapsed time going on is log 22. -/
def Obligations.PowerOnAndResetPinGivePowerOnValues : Prop :=
  ∀ (gap : Nat) (s : State),
    (∃ t, exec (.powerOn gap) s = .next t ∧ PowerOnValues s t ∧ t.pending = s.pending ∧ t.elapsed = s.elapsed + gap ∧
      t.latencyEnd = 10000000000 + t.elapsed) ∧
    (∃ t, exec (.resetPinAsserted gap) s = .next t ∧ PowerOnValues s t ∧ t.pending = s.pending ∧
      t.elapsed = s.elapsed + gap ∧ t.latencyEnd = 10000000000 + t.elapsed)

/-- RESET_COLD gives every block its power-on values and then places its answer OK on its arrival link (R192); the oscillator
and the latency period run on (R10, R59). -/
def Obligations.ColdResetAnswersAfterPowerOnValues : Prop :=
  ∀ (gap : Nat) (r : Request) (s : State), requestCarries r 26 0 → s.offers r →
    ∃ t, exec (.resetCold gap r) s = .next (finish (answerRequest r .ok [] t)) ∧ PowerOnValues s t ∧
      t.pending = s.pending ∧ t.elapsed = s.elapsed + gap ∧ t.latencyEnd = s.latencyEnd

/-- At power-on, at the reset pin and at RESET_COLD the Timeline holds no record, every report slot is free, and the
forced-close count and the store-discard count are 0 (R84). -/
def Obligations.TimelineIsEmptyAfterPowerOnAndColdReset : Prop :=
  ∀ (gap : Nat) (r : Request) (s : State),
    let empty := fun t : State => t.timeline = [] ∧ t.freeSlots = 16384 ∧ t.forcedCloses = 0 ∧ t.storeDiscards = 0
    (∃ t, exec (.powerOn gap) s = .next t ∧ empty t) ∧ (∃ t, exec (.resetPinAsserted gap) s = .next t ∧ empty t) ∧
      (requestCarries r 26 0 → s.offers r → ∃ t, exec (.resetCold gap r) s = .next t ∧ empty t)

/-- RESET_WARM: run states, streams, the Timeline, the Report Store, notices and latches are cleared, configuration, plan,
Timebase, port counts and link queues are kept, and each held slot is answered ABORTED before the reset's own answer (R65, R85,
R87, R131, R163, R178, R191). The order of the slots is log 15. A Code Map that is built anew maps each code to the enabled
descriptor that has it, where no two have the same one (R40, R65). -/
def Obligations.WarmResetKeepsConfigurationAndAborts : Prop :=
  (∀ (gap : Nat) (r : Request) (s : State), requestCarries r 25 0 → s.offers r →
     ∃ t, exec (.resetWarm gap r) s = .next (finish (answerRequest r .ok [] t)) ∧
       (∀ n, t.station n = ⟨(s.station n).config,
         clearedStationRun (if (s.station n).config.enable then .awaiting else .disabled)⟩) ∧
       t.codeMap = codesOfEnabled s.stations ∧
       (∀ k, t.stream k = ⟨(s.stream k).config, clearedStreamRun⟩) ∧
       t.timeline = [] ∧ t.freeSlots = 16384 ∧ t.forcedCloses = 0 ∧ t.storeDiscards = 0 ∧
       t.notices.queue = [] ∧ t.notices.overflow = false ∧
       (∀ l, t.line l = { s.line l with latchSet := false, latchPending := none, latchCode := none }) ∧
       (∀ d, t.slot d = none) ∧
       (∀ c, (t.center c).tx = none ∧ (t.center c).up = (s.center c).up ∧ (t.center c).received = (s.center c).received ∧
         (t.center c).checkFailures = (s.center c).checkFailures ∧ (t.center c).drops = (s.center c).drops) ∧
       (∀ c, (t.center c).answers = allSlots.foldl (fun q d =>
         match s.slot d with
         | some h => if h.link = c ∧ q.length < 8 then q ++ [⟨h.source, h.tag, h.kind, h.target, .aborted, []⟩] else q
         | none => q) (s.center c).answers) ∧
       t.plan = s.plan ∧ t.timebase = (s.runClock gap).timebase ∧ t.globals = s.globals ∧ t.unitNumber = s.unitNumber ∧
       t.passThrough = s.passThrough ∧ t.pointer = s.pointer ∧ t.inputQueue = s.inputQueue.tail ∧
       t.elapsed = s.elapsed + gap ∧ t.latencyEnd = s.latencyEnd ∧ t.pending = s.pending) ∧
  (∀ (v : Vector Station 1024) (code : Nat) (n : StationNo),
     (∀ a b : StationNo, v[a].config.enable = true → v[b].config.enable = true →
       v[a].config.code = v[b].config.code → a = b) →
     (codeLookup (codesOfEnabled v) code = some n ↔ v[n].config.enable = true ∧ v[n].config.code = code))

/-! ## Grid time, instants, snapping, due-ness -/

/-- The next instant of a rate later than a grid time is an instant of the rate, later than it, and the earliest such; there is
none exactly when none lies in the last second (R6). What this rests on is stated beside it: the rates of the rate codes (R4),
the grid times and their order (R1), and the instants of a rate, whose nanoseconds are those of an index below the rate (R5). -/
def Obligations.NextInstantIsTheEarliestLater : Prop :=
  (∀ (rate : RateCode) (t : GridTime), gridValid t = true →
     (∀ u, nextInstant rate t = some u → gridValid u = true ∧ isInstant rate u = true ∧ earlier t u = true ∧
       ∀ v, gridValid v = true → isInstant rate v = true → earlier t v = true → earlier v u = false) ∧
     (nextInstant rate t = none ↔ ∀ v, gridValid v = true → isInstant rate v = true → earlier t v = false)) ∧
  (∀ (rate : RateCode) (t : GridTime),
     isInstant rate t = true ↔ ∃ i < rate.rate, t.ns = 1000000000 * i / rate.rate) ∧
  (∀ a b : GridTime,
     (gridValid a = true ↔ a.sec ≤ 4294967295 ∧ a.ns ≤ 999999999) ∧
     (earlier a b = true ↔ a.sec < b.sec ∨ a.sec = b.sec ∧ a.ns < b.ns) ∧ laterOf a b = if earlier a b then b else a) ∧
  ([.r10, .r12, .r15, .r20, .r25, .r30, .r50, .r60, .r100, .r120] : List RateCode).map RateCode.rate =
    [10, 12, 15, 20, 25, 30, 50, 60, 100, 120]

/-- A report is on grid exactly when an instant of its station's rate lies within the tolerance, and it then snaps to that
instant, but for the instant beyond the largest grid time, which is OFF_GRID (R7, R8). -/
def Obligations.SnapFindsTheInstantWithinTolerance : Prop :=
  ∀ (rate : RateCode) (tolerance : Nat) (tag : GridTime), gridValid tag = true → tolerance ≤ 500 →
    (∀ u, snap rate tolerance tag = some u ↔
      gridValid u = true ∧ isInstant rate u = true ∧ (diffNs tag u).natAbs ≤ 1000 * tolerance)

/-- The due rule (R9): a station is due at instant j of a stream when j times its rate is a multiple of the stream's rate, which
holds exactly when the stream instant is an instant of the station's rate too. The index of an instant is the one whose nominal
nanoseconds it has (R5). -/
def Obligations.DueExactlyAtSharedInstants : Prop :=
  (∀ (station stream : RateCode) (t : GridTime) (j : Nat), instantIndex stream t = some j →
     (isDue station stream t = true ↔ (j * station.rate) % stream.rate = 0) ∧
       (isDue station stream t = true ↔ isInstant station t = true)) ∧
  (∀ (rate : RateCode) (t : GridTime) (j : Nat),
     instantIndex rate t = some j ↔ j < rate.rate ∧ t.ns = 1000000000 * j / rate.rate)

/-! ## Links -/

/-- A completed reception on a line link that is UP (R167, R168): the count rises; a frame that fails its check is counted and
dropped; a transport frame joins the receive queue with its arrival local time, or is dropped and counted at 32; any other frame
joins the pass-through queue, or is dropped and counted at 64. On a DOWN link there is no reception (R166, log 25). A frame
passes its check when it has 14 to 2,048 bytes and its last 4 carry the check value of the bytes before them, most significant
first; `checkValue` is the register of R179, bit by bit. Source, link type and content stand where the link header of R179 and
the check leave them. -/
def Obligations.LineFrameIsQueuedPassedOrDropped : Prop :=
  (∀ (gap : Nat) (l : LineId) (bytes : List Byte) (s : State),
     let u := s.runClock gap
     let x : LineLink := { s.line l with received := satInc (s.line l).received }
     let transport := frameType bytes = s.globals.transportType
     ((s.line l).up = false → exec (.lineFrameReceived gap l bytes) s = .next (finish u)) ∧
     ((s.line l).up = true →
       (frameOk bytes = false → exec (.lineFrameReceived gap l bytes) s =
         .next (finish (u.setLine l { x with checkFailures := satInc (s.line l).checkFailures }))) ∧
       (frameOk bytes = true → transport → (s.line l).queue.length < 32 → exec (.lineFrameReceived gap l bytes) s =
         .next (finish (u.setLine l { x with queue := (s.line l).queue ++ [⟨bytes, u.localTime⟩] }))) ∧
       (frameOk bytes = true → transport → 32 ≤ (s.line l).queue.length → exec (.lineFrameReceived gap l bytes) s =
         .next (finish (u.setLine l { x with queueDrops := satInc (s.line l).queueDrops }))) ∧
       (frameOk bytes = true → ¬transport → s.passThrough.length < 64 → exec (.lineFrameReceived gap l bytes) s =
         .next (finish { u.setLine l x with passThrough := s.passThrough ++ [bytes] })) ∧
       (frameOk bytes = true → ¬transport → 64 ≤ s.passThrough.length → exec (.lineFrameReceived gap l bytes) s =
         .next (finish (u.setLine l { x with queueDrops := satInc (s.line l).queueDrops }))))) ∧
  (∀ bytes : List Byte,
     let check := checkValue (bytes.take (bytes.length - 4))
     (frameOk bytes = true ↔ 14 ≤ bytes.length ∧ bytes.length ≤ 2048 ∧ bytes.drop (bytes.length - 4) =
       [BitVec.ofNat 8 (check / 16777216), BitVec.ofNat 8 (check / 65536), BitVec.ofNat 8 (check / 256),
         BitVec.ofNat 8 check]) ∧
     frameSource bytes = numAt16 bytes 2 ∧ frameType bytes = numAt16 bytes 4 ∧
     frameContent bytes = (bytes.drop 6).take (bytes.length - 10))

/-- A completed reception on a center link that is UP (R167, R170, R181): a failing frame is counted and dropped; a request
frame that the link mask, its length, its unit number and the room in the input queue let in joins the input queue with its
arrival link and its source link address; every other passing frame raises the drop count. That the queued request keeps every
byte after its header as delivered, and that the transport length is not looked at, is log 18. -/
def Obligations.CenterFrameIsAcceptedOrDropped : Prop :=
  ∀ (gap : Nat) (c : CenterId) (bytes : List Byte) (s : State),
    let u := s.runClock gap
    let x : CenterLink := { s.center c with received := satInc (s.center c).received }
    let content := frameContent bytes
    let request := frameType bytes = s.globals.transportType ∧ numAt16 content 0 = 2
    let admitted := (match c with | .c0 => s.globals.mask0 | .c1 => s.globals.mask1) = true ∧ 16 ≤ content.length ∧
      (numAt32 content 4 = s.unitNumber ∨ (numAt32 content 4 = 0 ∧ byteAt content 10 = 1)) ∧ s.inputQueue.length < 4
    ((s.center c).up = false → exec (.centerFrameReceived gap c bytes) s = .next (finish u)) ∧
    ((s.center c).up = true →
      (frameOk bytes = false → exec (.centerFrameReceived gap c bytes) s =
        .next (finish (u.setCenter c { x with checkFailures := satInc (s.center c).checkFailures }))) ∧
      (frameOk bytes = true → request ∧ admitted → exec (.centerFrameReceived gap c bytes) s =
        .next (finish { u.setCenter c x with inputQueue := s.inputQueue ++
          [⟨c, numAt16 bytes 2, numAt16 content 8, byteAt content 10, byteAt content 11, numAt16 content 12,
            numAt16 content 14, content.drop 16⟩] })) ∧
      (frameOk bytes = true → ¬(request ∧ admitted) → exec (.centerFrameReceived gap c bytes) s =
        .next (finish (u.setCenter c { x with drops := satInc (s.center c).drops }))))

/-- A link takes the state its link layer reports (R166); a center link that goes DOWN abandons what it transmits, and a set in
transmission leaves its queue, is counted discarded and announced with cause LINK (R175). -/
def Obligations.LinkStateChangesAndAbandonment : Prop :=
  ∀ (gap : Nat) (s : State),
    let u := s.runClock gap
    (∀ l, exec (.linkUp gap (.line l)) s = .next (finish (u.setLine l { s.line l with up := true })) ∧
      exec (.linkDown gap (.line l)) s = .next (finish (u.setLine l { s.line l with up := false }))) ∧
    (∀ c, exec (.linkUp gap (.center c)) s = .next (finish (u.setCenter c { s.center c with up := true }))) ∧
    (∀ c, txStream (s.center c).tx = none → exec (.linkDown gap (.center c)) s =
      .next (finish (u.setCenter c { s.center c with up := false, tx := none }))) ∧
    (∀ c k i d b a rest, (s.center c).tx = some (.fragment k i d b) → (s.stream k).run.queue = a :: rest →
      exec (.linkDown gap (.center c)) s = .next (finish (pushNotice (.setDiscarded k .link a.sequence)
        ((u.setCenter c { s.center c with up := false, tx := none }).setStreamRun k { (s.stream k).run with
          queue := rest, discarded := satInc (s.stream k).run.discarded }))))

/-! ## The Report Intake -/

/-- The intake takes the head frame of the first non-empty receive queue, searching from the link after the one the pointer
names, sets the pointer to it and handles the report whole (R15, R16); with every queue empty it takes nothing (log 3). -/
def Obligations.IntakeServesLinesInTurn : Prop :=
  ∀ (gap : Nat) (s : State),
    (∀ (i : Fin 4) (f : QueuedFrame) (rest : List QueuedFrame),
      (∀ j : Fin 4, j < i → (s.line (s.pointer + 1 + j)).queue = []) →
      (s.line (s.pointer + 1 + i)).queue = f :: rest →
      exec (.reportIntake gap) s = .next (finish (takeReport (s.pointer + 1 + i) f
        { (s.runClock gap).setLine (s.pointer + 1 + i) { s.line (s.pointer + 1 + i) with queue := rest } with
          pointer := s.pointer + 1 + i }))) ∧
    ((∀ l, (s.line l).queue = []) → exec (.reportIntake gap) s = .next (finish (s.runClock gap)))

/-- The carried counts follow from the size of the value region: all declared phasors and then at most the declared analogs, or
fewer phasors and no analog (R14, R18); and the reports that are MALFORMED by the form check (R17, R18). A report that is not
MALFORMED has the fields of Table 2-1 at the offsets of Table 9-3, its phasors and analogs in order, and is short when it
carries fewer phasors or analogs than it declares (R13, R14). -/
def Obligations.FormCheckFindsTheMalformedReports : Prop :=
  (∀ size P A p a : Nat, carriedCounts size P A = some (p, a) ↔
     size = 8 * p + 4 * a ∧ ((p = P ∧ a ≤ A) ∨ (p < P ∧ a = 0))) ∧
  (∀ bytes : List Byte,
     let content := frameContent bytes
     let body := content.drop 4
     let length := numAt16 content 2
     parseReport bytes = none ↔
       numAt16 content 0 ≠ 1 ∨ body.length < length ∨ length < 28 ∨ 1000000000 ≤ numAt32 body 12 ∨
       32 < byteAt body 4 ∨ 8 < byteAt body 5 ∨ carriedCounts (length - 28) (byteAt body 4) (byteAt body 5) = none) ∧
  (∀ (bytes : List Byte) (p : ParsedReport), parseReport bytes = some p →
     let content := frameContent bytes
     let body := content.drop 4
     let declared := (byteAt body 4, byteAt body 5)
     let word := fun i => BitVec.ofNat 32 (numAt32 body i)
     p.code = numAt16 body 0 ∧ p.shape = ⟨numAt16 body 2, declared.1, declared.2⟩ ∧
     p.tag = ⟨numAt32 body 8, numAt32 body 12⟩ ∧ (p.locked = true ↔ byteAt body 6 = 0) ∧
     p.uncertainty = byteAt body 7 % 16 ∧ p.status = BitVec.ofNat 16 (numAt16 body 24) ∧ p.frequency = word 16 ∧
     p.rocof = word 20 ∧
     carriedCounts (numAt16 content 2 - 28) declared.1 declared.2 = some (p.phasors.length, p.analogs.length) ∧
     (∀ i < p.phasors.length, p.phasors[i]? = some (word (28 + 8 * i), word (32 + 8 * i))) ∧
     (∀ j < p.analogs.length, p.analogs[j]? = some (word (28 + 8 * p.phasors.length + 4 * j))) ∧
     (p.short = true ↔ p.phasors.length < declared.1 ∨ p.analogs.length < declared.2)) ∧
  (∀ (l : List Byte) (i : Nat), byteAt l i = (l.getD i 0).toNat ∧ numAt16 l i = 256 * byteAt l i + byteAt l (i + 1) ∧
     numAt32 l i = 65536 * numAt16 l i + numAt16 l (i + 2))

/-- Reports that end before the hand-over: MALFORMED changes nothing (R17); UNKNOWN_CODE reaches only the arrival link's latch
(R19, R153); OFF_GRID and FUTURE raise REJECT_COUNT, OFF_GRID also its condition (R21, R22). Only the notices and counters
named change. -/
def Obligations.ReportsThatEndBeforeTheHandOver : Prop :=
  ∀ (l : LineId) (f : QueuedFrame) (s : State),
    (parseReport f.bytes = none → takeReport l f s = s) ∧
    (∀ p, parseReport f.bytes = some p →
      (codeLookup s.codeMap p.code = none →
        ((s.line l).latchSet = true → takeReport l f s = s) ∧
        ((s.line l).latchSet = false → takeReport l f s = pushNotice (.unknownCode l p.code)
          (s.setLine l { s.line l with
            latchSet := true, latchCode := some p.code
            latchPending := if s.notices.queue.length < 256 then some s.notices.serial else none }))) ∧
      (∀ n, codeLookup s.codeMap p.code = some n → p.shape = (s.station n).config.shape →
        (snap (s.station n).config.rate (s.station n).config.snapTol p.tag = none →
          takeReport l f s = risingEdge n .offGrid (countStation n .reject s)) ∧
        (∀ t, snap (s.station n).config.rate (s.station n).config.snapTol p.tag = some t →
          s.timebase.mode ≠ .free → earlier (addNs s.localTime (1000000 * s.globals.futureTolerance)) t = true →
          takeReport l f s = countStation n .reject s)))

/-- A good report (step 6) is handed to the Station Table with the suspect mark, and placed exactly when the station is then
ADMITTED (R23-R25); the future check is skipped in FREE (R22). The Station Table takes it in three ways (R24): a short report
is a rising edge of SHORT; last-report-suspect takes the suspect mark, and its change to set is a rising edge of SUSPECT_TIME;
the run state advances, where the latency tracker records the measured delay, at most 60 s, while the Timebase is not FREE
(R12, R58). That the tracker takes the delay before the state advances changes no outcome (the two touch different fields). -/
def Obligations.GoodReportIsHandedOverAndPlacedIfAdmitted : Prop :=
  (∀ (l : LineId) (f : QueuedFrame) (s : State) (p : ParsedReport) (n : StationNo) (t : GridTime),
     parseReport f.bytes = some p → codeLookup s.codeMap p.code = some n → p.shape = (s.station n).config.shape →
     snap (s.station n).config.rate (s.station n).config.snapTol p.tag = some t →
     (s.timebase.mode = .free ∨ earlier (addNs s.localTime (1000000 * s.globals.futureTolerance)) t = false) →
     let suspect := !p.locked || decide ((s.station n).config.quality < p.uncertainty)
     let u := takeGoodReport n t suspect p.short f.arrival s
     ((u.station n).run.state = .admitted → takeReport l f s =
       placement n t ⟨suspect, p.status, p.frequency, p.rocof, p.phasors, p.analogs⟩ u) ∧
     ((u.station n).run.state ≠ .admitted → takeReport l f s = u)) ∧
  (∀ (n : StationNo) (t : GridTime) (suspect short : Bool) (arrival : GridTime) (s : State),
     let run := fun v : State => (v.station n).run
     let a := if short then risingEdge n .short s else s
     let b := a.setRun n { run a with suspect := suspect }
     let c := if suspect = true ∧ (run s).suspect = false then risingEdge n .suspectTime b else b
     let delay := min ((gridNs arrival - gridNs t) / 1000) 60000000
     (s.timebase.mode = .free → takeGoodReport n t suspect short arrival s = advanceStation n t suspect c) ∧
     (s.timebase.mode ≠ .free → takeGoodReport n t suspect short arrival s =
       advanceStation n t suspect (c.setRun n { run c with curMax := max (run c).curMax delay })))

/-! ## Placement -/

/-- Which streams want an instant and which have passed it (R26); the record that a creation makes, with a window opened for
every stream that wants the instant and the others NOT_USED (R72). `place` answers the state after a placement and whether the
report is late; the placement of a late one moves LATE_COUNT and its condition first (R33, R162). A report for an instant
without a record is UNSCHEDULED, or LATE where a stream has passed the instant; where a stream wants it the record is created
and the report goes on to the slot step (R27, R28). At a full Timeline an instant before the oldest record is STORE_FULL; for a
later one the oldest record is force-closed and placement decides again (R77). With a record: a second report of the station is
DUPLICATE and raises REJECT_COUNT (R29); with a free slot it is entered (R31); without one and with its own record the oldest it
is STORE_FULL, and else the oldest record is force-closed and the slot step repeats until a slot is free or the report's record
has left (R30, R79). The order of a late report's notices is log 24. A created record stands at its place in instant order
(R66), and `recordAt` finds the record of an instant. -/
def Obligations.PlacementFollowsTheRecordAndTheStore : Prop :=
  (∀ (s : State) (t : GridTime),
     (∀ k, let x := s.stream k
       let instant := ∃ i < x.config.rate.rate, t.ns = 1000000000 * i / x.config.rate.rate
       (wants s k t = true ↔ x.run.state = .running ∧ instant ∧ earlier x.run.floor t = true) ∧
       (hasPassed s k t = true ↔
         (x.run.state = .running ∨ x.run.state = .draining) ∧ instant ∧ earlier x.run.floor t = false)) ∧
     (anyWants s t = true ↔ ∃ k, wants s k t = true) ∧ (anyPassed s t = true ↔ ∃ k, hasPassed s k t = true) ∧
     (∀ r : Record, lateInRecord s r = true ↔ ∃ k : StreamNo, (∃ c, r.windows[k].state = .closed c) ∨
       (r.windows[k].state = .notUsed ∧ hasPassed s k r.instant = true)) ∧
     (∀ cause, let r := newRecord s t cause
       r.instant = t ∧ r.cause = cause ∧ r.arrivals = [] ∧ ∀ k : StreamNo, r.windows[k] =
         if wants s k t then openedWindow s k ⟨t, cause, [], Vector.replicate 8 ⟨.notUsed, [], none, 0⟩⟩
         else ⟨.notUsed, [], none, 0⟩)) ∧
  (∀ (n : StationNo) (t : GridTime) (p : Report) (s : State),
     placement n t p s = if (place n t p s).2
       then (place n t p (risingEdge n .late (countStation n .late s))).1 else (place n t p s).1) ∧
  (∀ (n : StationNo) (t : GridTime) (p : Report) (s : State), recordAt s t = none →
     let created := fun v : State => { v with timeline := insertRecord (newRecord v t .arrival) v.timeline }
     (anyWants s t = false → place n t p s = (s, anyPassed s t)) ∧
     (anyWants s t = true → s.timeline.length < 512 → place n t p s = place n t p (created s) ∧
       recordAt (created s) t = some (newRecord s t .arrival)) ∧
     (anyWants s t = true → 512 ≤ s.timeline.length → ∀ o rest, s.timeline = o :: rest →
       (earlier t o.instant = true → place n t p s = ({ s with storeDiscards := satInc s.storeDiscards }, false)) ∧
       (earlier o.instant t = true →
         let v := forceClose o.instant s
         (anyWants v t = false → place n t p s = (v, anyPassed v t)) ∧
         (anyWants v t = true → place n t p s = place n t p (created v) ∧
           recordAt (created v) t = some (newRecord v t .arrival))))) ∧
  (∀ (n : StationNo) (t : GridTime) (p : Report) (s : State) (r : Record), recordAt s t = some r →
     ((arrivalOf r.arrivals n).isSome = true → place n t p s = (countStation n .reject s, false)) ∧
     (arrivalOf r.arrivals n = none → 0 < s.freeSlots → place n t p s = (enterReport n t p s, lateInRecord s r)) ∧
     (arrivalOf r.arrivals n = none → s.freeSlots = 0 → ∀ o rest, s.timeline = o :: rest →
       (o.instant = t → place n t p s = (settleAll { s with storeDiscards := satInc s.storeDiscards }, false)) ∧
       (o.instant ≠ t →
         let v := forceClose o.instant s
         (recordAt v t = none → place n t p s = (v, anyPassed v t)) ∧
         (∀ q, recordAt v t = some q → place n t p s = place n t p v)))) ∧
  (∀ (r : Record) (l : List Record), l.Pairwise (fun a b => earlier a.instant b.instant = true) →
     (∀ q ∈ l, q.instant ≠ r.instant) →
     (insertRecord r l).Pairwise (fun a b => earlier a.instant b.instant = true) ∧
       ∀ q, q ∈ insertRecord r l ↔ q = r ∨ q ∈ l) ∧
  (∀ (s : State) (t : GridTime) (r : Record), StoreOk s → (recordAt s t = some r ↔ r ∈ s.timeline ∧ r.instant = t))

/-- The entry of a placed report (R31-R33): one free slot fewer, the map gains the entry, and then the windows that are READY
close in order (that S0 goes first is log 13). Of the entered record's windows, an OPEN or READY one no longer awaits the
station, an OPEN one that this empties is READY with cause COMPLETE when its stream closes on complete, a CLOSED one counts one
late arrival, and a NOT_USED one is unchanged. Every other record is unchanged before the closes. The arrival map then holds the
report for its station, and for every other station what it held (R31, R69). -/
def Obligations.PlacedReportTakesASlotAndItsWindows : Prop :=
  (∀ (n : StationNo) (t : GridTime) (p : Report) (s : State),
     ∃ u, enterReport n t p s = settleAll u ∧
       u = { s with freeSlots := s.freeSlots - 1, timeline := u.timeline } ∧
       u.timeline.length = s.timeline.length ∧
       ∀ i (h : i < s.timeline.length) (h' : i < u.timeline.length),
         (s.timeline[i].instant ≠ t → u.timeline[i] = s.timeline[i]) ∧
         (s.timeline[i].instant = t →
           u.timeline[i].instant = t ∧ u.timeline[i].cause = s.timeline[i].cause ∧
           u.timeline[i].arrivals = arrivalInsert n p s.timeline[i].arrivals ∧
           ∀ k : StreamNo,
             let w := s.timeline[i].windows[k]
             let w' := u.timeline[i].windows[k]
             w'.deadline = w.deadline ∧
             (w.state = .notUsed → w' = w) ∧
             (∀ c, w.state = .closed c → w' = { w with late := satInc w.late }) ∧
             (w.waiting = true → w'.awaited = w.awaited.filter (· ≠ n) ∧ w'.late = w.late) ∧
             (∀ c, w.state = .ready c → w'.state = .ready c) ∧
             (w.state = .opened → w'.state =
               if n ∈ w.awaited ∧ w.awaited.filter (· ≠ n) = [] ∧ (s.stream k).config.closeOnComplete = true
               then .ready .complete else .opened))) ∧
  (∀ (n m : StationNo) (p : Report) (l : List (StationNo × Report)), l.Pairwise (fun a b => a.1 < b.1) →
     arrivalOf (arrivalInsert n p l) m = if m = n then some p else arrivalOf l m)

/-! ## Stations -/

/-- A good report in ACQUIRING changes the good count by the first case that applies (R44): a suspect report sets it to 0, a
fresh one adds 1, any other sets it to 1. While the count stays below the acquire count nothing else changes; when it has
reached it, acquisition completes in HELD or ADMITTED with cause ACQUIRED, the acquisition timer stops, the silence timer
starts, and the deferred answers end OK (R45, R61). That it completes also where the count keeps its value, as from 1 to 1 under
a newly lowered acquire count, is log 21. The deferred answers end in the order of the deferrals: each held answer is placed,
with the result and an empty payload, on its own link, its slot becomes free and leaves the deferrals (R61, R189); a station
whose deferrals are slots held for it is left without any, and no other slot changes. A slot that a stream waits in leaves the
stream's pending stop. -/
def Obligations.AcquisitionCountsFreshReports : Prop :=
  (∀ (n : StationNo) (t : GridTime) (suspect : Bool) (s : State), (s.station n).run.state = .acquiring →
     let c := (s.station n).config
     let r := (s.station n).run
     let fresh := match r.lastFresh with | some last => earlier last t | none => true
     let count := if suspect then 0 else if fresh then r.goodCount + 1 else 1
     let last := if suspect then r.lastFresh else some t
     let next : StationState := if c.hold then .held else .admitted
     (count < c.acquire → advanceStation n t suspect s = s.setRun n { r with goodCount := count, lastFresh := last }) ∧
     (c.acquire ≤ count → advanceStation n t suspect s =
       completeDeferrals n .ok (pushNotice (.stationState n .acquiring next .acquired) (s.setRun n { r with
         state := next, goodCount := count, lastFresh := last, acqTimer := none
         silenceTimer := some (1000000000 * c.silence + s.elapsed) })))) ∧
  (∀ (n : StationNo) (result : Result) (s : State),
     completeDeferrals n result s = (s.station n).run.deferrals.foldl (fun t d => endSlot d result [] t) s) ∧
  (∀ (d : SlotNo) (result : Result) (payload : List Byte) (s : State),
     (s.slot d = none → endSlot d result payload s = s) ∧
     (∀ h, s.slot d = some h →
       let v := (placeAnswer h.link ⟨h.source, h.tag, h.kind, h.target, result, payload⟩ s).setSlot d none
       (∀ n, h.op = .station n → endSlot d result payload s = v.setRun n { (s.station n).run with
         deferrals := (s.station n).run.deferrals.filter (· ≠ d) }) ∧
       (∀ k, h.op = .stream k → endSlot d result payload s = v.setStreamRun k { (s.stream k).run with
         pendingStop := none }))) ∧
  (∀ (n : StationNo) (result : Result) (s : State),
     (∀ d ∈ (s.station n).run.deferrals, ∃ h, s.slot d = some h ∧ h.op = .station n) →
     let t := completeDeferrals n result s
     (t.station n).run = { (s.station n).run with deferrals := [] } ∧
       ∀ d, t.slot d = if d ∈ (s.station n).run.deferrals then none else s.slot d)

/-- A good report in HELD or ADMITTED restarts the silence timer and nothing else (R47, R48). In SILENT it readmits the station
with cause RESUMED, or, with re-acquire set, begins an acquisition with cause REACQUIRE (R50); in AWAITING it begins one with
cause FIRST_REPORT (R43). A beginning acquisition has good count 1, or 0 for a suspect report, and one that this completes ends
at once in HELD or ADMITTED with its own notice (R43, R45). In SHAPE_PENDING and SHAPE_HELD the station returns to its return
state with cause SHAPE_REVERTED and the report is taken there (R55): in ACQUIRING the acquisition timer starts and the report
counts as `AcquisitionCountsFreshReports` states, in HELD and ADMITTED the silence timer starts. Whether a revert clears the
return state is the free value of log 11: the statement holds for both. -/
def Obligations.GoodReportKeepsTheStationAlive : Prop :=
  ∀ (n : StationNo) (t : GridTime) (suspect : Bool) (s : State),
    let c := (s.station n).config
    let r := (s.station n).run
    let silence := some (1000000000 * c.silence + s.elapsed)
    let acquisition := match c.acqLimit with
      | .s30 => some (30000000000 + s.elapsed)
      | .s60 => some (60000000000 + s.elapsed)
      | .off => none
    let count := if suspect then 0 else 1
    let last := if suspect then r.lastFresh else some t
    let next : StationState := if c.hold then .held else .admitted
    let begun := fun cause => pushNotice (.stationState n r.state .acquiring cause) (s.setRun n { r with
      state := .acquiring, silenceTimer := none, acqTimer := acquisition, goodCount := count, lastFresh := last })
    let acquired := fun cause => completeDeferrals n .ok (pushNotice (.stationState n .acquiring next .acquired)
      ((begun cause).setRun n { r with
        state := next, silenceTimer := silence, acqTimer := none, goodCount := count, lastFresh := last }))
    (r.state = .held ∨ r.state = .admitted →
      advanceStation n t suspect s = s.setRun n { r with silenceTimer := silence }) ∧
    (r.state = .silent → c.reacquire = false → advanceStation n t suspect s =
      completeDeferrals n .ok (pushNotice (.stationState n .silent .admitted .resumed)
        (s.setRun n { r with state := .admitted, silenceTimer := silence }))) ∧
    (r.state = .silent → c.reacquire = true →
      (count < c.acquire → advanceStation n t suspect s = begun .reacquire) ∧
      (c.acquire ≤ count → advanceStation n t suspect s = acquired .reacquire)) ∧
    (r.state = .awaiting →
      (count < c.acquire → advanceStation n t suspect s = begun .firstReport) ∧
      (c.acquire ≤ count → advanceStation n t suspect s = acquired .firstReport)) ∧
    (r.state = .shapePending ∨ r.state = .shapeHeld → ∃ kept, (kept = r.returnState ∨ kept = none) ∧
      let reverted := fun back timer limit => pushNotice (.stationState n r.state back .shapeReverted) (s.setRun n { r with
        state := back, pendingShape := none, confirmations := 0, returnState := kept, silenceTimer := timer
        acqTimer := limit })
      (r.returnState = some .acquiring →
        advanceStation n t suspect s = advanceStation n t suspect (reverted .acquiring none acquisition)) ∧
      (r.returnState = some .held →
        advanceStation n t suspect s = completeDeferrals n .ok (reverted .held silence r.acqTimer)) ∧
      (r.returnState = some .admitted →
        advanceStation n t suspect s = completeDeferrals n .ok (reverted .admitted silence r.acqTimer)))

/-- A report of another shape (R53, R54, R56): from ACQUIRING, HELD and ADMITTED the station moves to SHAPE_PENDING; in AWAITING
and SILENT nothing changes; a third report of the pending shape confirms it, to SHAPE_HELD or, with shape auto, to ACQUIRING
under the new shape with an acquisition that starts afresh (R57). In SHAPE_HELD a report of the pending shape restarts the
silence timer, and one of a third shape moves the station back to SHAPE_PENDING (R56). A station that leaves ADMITTED then
leaves the awaited sets. That the confirming report restarts the silence timer, which then continues into SHAPE_HELD, is log 28.
A report that is not MALFORMED, whose code the Code Map holds and whose shape differs from the descriptor's is taken so and in
no other way (R20): it is not placed and not counted. -/
def Obligations.ShapeChangesArePendedAndConfirmed : Prop :=
  (∀ (n : StationNo) (x : Shape) (s : State),
     let c := (s.station n).config
     let r := (s.station n).run
     let silence := some (1000000000 * c.silence + s.elapsed)
     let pend := fun back => pushNotice (.stationState n r.state .shapePending .shapeChange)
       (s.setRun n { r with state := .shapePending, returnState := some back, pendingShape := some x, confirmations := 1
                            acqTimer := none, silenceTimer := silence })
     (r.state = .acquiring → takeShapeChange n x s = pend .acquiring) ∧
     (r.state = .held → takeShapeChange n x s = pend .held) ∧
     (r.state = .admitted → takeShapeChange n x s = leaveAwaited n (pend .admitted)) ∧
     (r.state = .awaiting ∨ r.state = .silent → takeShapeChange n x s = s) ∧
     (r.state = .shapePending → r.pendingShape ≠ some x → takeShapeChange n x s =
       s.setRun n { r with pendingShape := some x, confirmations := 1, silenceTimer := silence }) ∧
     (r.state = .shapePending → r.pendingShape = some x → r.confirmations + 1 < 3 → takeShapeChange n x s =
       s.setRun n { r with confirmations := r.confirmations + 1, silenceTimer := silence }) ∧
     (r.state = .shapePending → r.pendingShape = some x → r.confirmations = 2 → c.shapeAuto = false →
       takeShapeChange n x s = pushNotice (.stationState n .shapePending .shapeHeld .shapeConfirmed)
         (s.setRun n { r with state := .shapeHeld, confirmations := 3, silenceTimer := silence })) ∧
     (r.state = .shapePending → r.pendingShape = some x → r.confirmations = 2 → c.shapeAuto = true →
       takeShapeChange n x s = pushNotice (.stationState n .shapePending .acquiring .shapeAdopted)
         (s.setStation n ⟨{ c with shape := x }, { r with
           state := .acquiring, returnState := none, pendingShape := none, confirmations := 0, goodCount := 0
           lastFresh := none, silenceTimer := none
           acqTimer := match c.acqLimit with
             | .s30 => some (30000000000 + s.elapsed)
             | .s60 => some (60000000000 + s.elapsed)
             | .off => none }⟩)) ∧
     (r.state = .shapeHeld → r.pendingShape = some x →
       takeShapeChange n x s = s.setRun n { r with silenceTimer := silence }) ∧
     (r.state = .shapeHeld → r.pendingShape ≠ some x →
       takeShapeChange n x s = pushNotice (.stationState n .shapeHeld .shapePending .shapeChange)
         (s.setRun n { r with state := .shapePending, pendingShape := some x, confirmations := 1
                              silenceTimer := silence }))) ∧
  (∀ (l : LineId) (f : QueuedFrame) (s : State) (p : ParsedReport) (n : StationNo), parseReport f.bytes = some p →
     codeLookup s.codeMap p.code = some n → p.shape ≠ (s.station n).config.shape →
     takeReport l f s = takeShapeChange n p.shape s)

/-- The silence timer expires (R49): the clock stands at the expiry; ADMITTED moves to SILENT, raises SILENT and leaves the
awaited sets; HELD, SHAPE_PENDING and SHAPE_HELD move to AWAITING with the clearing of R43. The acquisition timer expires in
ACQUIRING (R46): AWAITING with cause ACQUIRE_FAILED and the clearing of R43, and the station's deferred answers end FAILED
(R61). The latency period ends (R59): every descriptor moves its current maximum into the previous one. A station that leaves
the awaited sets is removed from that of every window; an OPEN window that this empties is READY with cause COMPLETE when its
stream closes on complete, nothing else in the records changes, and then each stream settles (R51, R105), S0 first (log 13). -/
def Obligations.StationTimersAndTheLatencyPeriodExpire : Prop :=
  (∀ (n : StationNo) (s : State) (e : Nat), (s.station n).run.silenceTimer = some e →
     let u := s.runClock (e - s.elapsed)
     let r := (s.station n).run
     (r.state = .admitted → exec (.silenceTimerExpiry n) s = .next (finish (leaveAwaited n (risingEdge n .silent
       (pushNotice (.stationState n .admitted .silent .silence)
         (u.setRun n { r with state := .silent, silenceTimer := none })))))) ∧
     (r.state = .held ∨ r.state = .shapePending ∨ r.state = .shapeHeld →
       exec (.silenceTimerExpiry n) s = .next (finish (pushNotice (.stationState n r.state .awaiting .silence)
         (u.setRun n { r with state := .awaiting, returnState := none, pendingShape := none, confirmations := 0
                              goodCount := 0, lastFresh := none, acqTimer := none, silenceTimer := none }))))) ∧
  (∀ s : State,
     (∀ n e, (s.station n).run.acqTimer = some e → (s.station n).run.state = .acquiring →
       exec (.acquisitionTimerExpiry n) s = .next (finish (completeDeferrals n .failed
         (pushNotice (.stationState n .acquiring .awaiting .acquireFailed)
           ((s.runClock (e - s.elapsed)).setRun n { (s.station n).run with
             state := .awaiting, returnState := none, pendingShape := none, confirmations := 0
             goodCount := 0, lastFresh := none, acqTimer := none, silenceTimer := none }))))) ∧
     (∃ t, exec .latencyPeriodEnd s = .next (finish t) ∧
       t = { s.runClock (s.latencyEnd - s.elapsed) with
         stations := t.stations, latencyEnd := 10000000000 + s.latencyEnd } ∧
       ∀ n, t.station n = { s.station n with
         run := { (s.station n).run with prevMax := (s.station n).run.curMax, curMax := 0 } })) ∧
  (∀ (n : StationNo) (s : State),
     ∃ u, leaveAwaited n s = settleAll u ∧ u = { s with timeline := u.timeline } ∧ u.timeline.length = s.timeline.length ∧
       ∀ i (h : i < s.timeline.length) (h' : i < u.timeline.length),
         u.timeline[i].instant = s.timeline[i].instant ∧ u.timeline[i].cause = s.timeline[i].cause ∧
         u.timeline[i].arrivals = s.timeline[i].arrivals ∧
         ∀ k : StreamNo,
           let w := s.timeline[i].windows[k]
           u.timeline[i].windows[k] = ⟨if w.state = .opened ∧ n ∈ w.awaited ∧ w.awaited.filter (· ≠ n) = [] ∧
             (s.stream k).config.closeOnComplete = true then .ready .complete else w.state,
             w.awaited.filter (· ≠ n), w.deadline, w.late⟩)

/-- ENABLE_STATION (R41): on a DISABLED descriptor with a code of its own the run state is cleared with state AWAITING, enable
is set, the code enters the Code Map, and the answer is OK at once without the WAIT flag; the refusals change nothing. The free
slot that a request takes is the lowest-numbered one, and there is none exactly when all four are held: that it is the lowest is
log 15. A code that enters the Code Map is found there with its station, and every other code as before (R40). -/
def Obligations.EnableStationStartsAwaiting : Prop :=
  (∀ (gap : Nat) (r : Request) (s : State) (n : StationNo),
     requestCarries r 7 0 → r.target = n.val → s.offers r →
     let u := s.taken gap
     let c := (s.station n).config
     ((s.station n).run.state ≠ .disabled ∨ c.code = 0 →
       exec (.enableStation gap r) s = .next (finish (refuse r .refusedState u))) ∧
     ((s.station n).run.state = .disabled → c.code ≠ 0 → (codeLookup s.codeMap c.code).isSome = true →
       exec (.enableStation gap r) s = .next (finish (refuse r .codeInUse u))) ∧
     ((s.station n).run.state = .disabled → c.code ≠ 0 → codeLookup s.codeMap c.code = none →
       let v := pushNotice (.stationState n .disabled .awaiting .enable)
         { u.setStation n ⟨{ c with enable := true }, clearedStationRun .awaiting⟩ with
           codeMap := codeInsert c.code n s.codeMap }
       (r.wait = 0 → exec (.enableStation gap r) s = .next (finish (answerRequest r .ok [] v))) ∧
       (r.wait = 1 → freeSlot s = none → exec (.enableStation gap r) s = .next (finish (refuse r .busy u))) ∧
       (∀ d, r.wait = 1 → freeSlot s = some d → exec (.enableStation gap r) s =
         .next (finish (v.setSlot d (some ⟨r.tag, r.kind, r.target, r.link, r.source, .station n,
             10000000000 + (s.elapsed + gap)⟩) |>.setRun n { clearedStationRun .awaiting with deferrals := [d] }))))) ∧
  (∀ (s : State) (d : SlotNo), (freeSlot s = none ↔ ∀ e, s.slot e ≠ none) ∧
     (freeSlot s = some d ↔ s.slot d = none ∧ ∀ e < d, s.slot e ≠ none)) ∧
  (∀ (m : List (Nat × StationNo)) (code other : Nat) (n : StationNo),
     codeLookup (codeInsert code n m) other = if other = code then some n else codeLookup m other)

/-- DISABLE_STATION (R42): a DISABLED station is left alone; any other moves to DISABLED, its code leaves the Code Map, timers
and the acquisition fields are cleared, counters, latches, the tracker and the suspect flag are kept, deferred answers end
ABORTED (R61), and a station that was ADMITTED leaves the awaited sets (R51). A code that leaves the Code Map is no longer found
with the station, and every other entry is as before (R40). -/
def Obligations.DisableStationKeepsCountersAndReports : Prop :=
  (∀ (gap : Nat) (r : Request) (s : State) (n : StationNo),
     requestCarries r 8 0 → r.target = n.val → s.offers r →
     let u := s.taken gap
     let x := s.station n
     let v := completeDeferrals n .aborted (pushNotice (.stationState n x.run.state .disabled .disable)
       { u.setStation n ⟨{ x.config with enable := false },
           { x.run with state := .disabled, returnState := none, pendingShape := none, confirmations := 0
                        goodCount := 0, lastFresh := none, acqTimer := none, silenceTimer := none }⟩ with
         codeMap := codeRemove x.config.code n s.codeMap })
     (x.run.state = .disabled → exec (.disableStation gap r) s = .next (finish (answerRequest r .ok [] u))) ∧
     (x.run.state ≠ .disabled → x.run.state ≠ .admitted →
       exec (.disableStation gap r) s = .next (finish (answerRequest r .ok [] v))) ∧
     (x.run.state = .admitted →
       exec (.disableStation gap r) s = .next (finish (answerRequest r .ok [] (leaveAwaited n v))))) ∧
  (∀ (m : List (Nat × StationNo)) (code other : Nat) (n k : StationNo), m.Pairwise (fun a b => a.1 < b.1) →
     (codeLookup (codeRemove code n m) other = some k ↔ codeLookup m other = some k ∧ ¬(other = code ∧ k = n)))

/-- ADMIT_STATION moves a HELD station to ADMITTED with cause ADMIT, without restarting its silence timer, and is refused in
every other state (R47). ACCEPT_SHAPE makes a SHAPE_HELD station's descriptor take the pending shape and moves it to ACQUIRING
with cause ACCEPT and an acquisition that starts afresh (R56, R57); it is answered OK at once, or with the WAIT flag its answer
is held in a free slot that joins the station's deferrals, and without a free slot it is BUSY (R61, R188); in every other state
it is refused. -/
def Obligations.AdmitAndAcceptMoveHeldStations : Prop :=
  (∀ (gap : Nat) (r : Request) (s : State) (n : StationNo),
     requestCarries r 9 0 → r.target = n.val → s.offers r →
     let u := s.taken gap
     ((s.station n).run.state = .held → exec (.admitStation gap r) s = .next (finish (answerRequest r .ok []
       (completeDeferrals n .ok (pushNotice (.stationState n .held .admitted .admission)
         (u.setRun n { (s.station n).run with state := .admitted })))))) ∧
     ((s.station n).run.state ≠ .held → exec (.admitStation gap r) s = .next (finish (refuse r .refusedState u)))) ∧
  (∀ (gap : Nat) (r : Request) (s : State) (n : StationNo),
     requestCarries r 10 0 → r.target = n.val → s.offers r →
     let u := s.taken gap
     let c := (s.station n).config
     (∀ x, (s.station n).run.state = .shapeHeld → (s.station n).run.pendingShape = some x →
       let run : StationRun := { (s.station n).run with
         state := .acquiring, returnState := none, pendingShape := none, confirmations := 0, goodCount := 0
         lastFresh := none, silenceTimer := none
         acqTimer := match c.acqLimit with
           | .s30 => some (30000000000 + (s.elapsed + gap))
           | .s60 => some (60000000000 + (s.elapsed + gap))
           | .off => none }
       let v := pushNotice (.stationState n .shapeHeld .acquiring .accept) (u.setStation n ⟨{ c with shape := x }, run⟩)
       (r.wait = 0 → exec (.acceptShape gap r) s = .next (finish (answerRequest r .ok [] v))) ∧
       (r.wait = 1 → freeSlot s = none → exec (.acceptShape gap r) s = .next (finish (refuse r .busy u))) ∧
       (∀ d, r.wait = 1 → freeSlot s = some d → exec (.acceptShape gap r) s =
         .next (finish (v.setSlot d (some ⟨r.tag, r.kind, r.target, r.link, r.source, .station n,
             10000000000 + (s.elapsed + gap)⟩) |>.setRun n { run with deferrals := run.deferrals ++ [d] })))) ∧
     ((s.station n).run.state ≠ .shapeHeld →
       exec (.acceptShape gap r) s = .next (finish (refuse r .refusedState u))))

/-- WRITE_STATION replaces the whole configuration but enable, and no run-state field; on a station that is not DISABLED a
change of code, shape or rate is refused, and so is a field outside its range (R38). The 32 payload bytes are read as the fields
of Table 3-1 after enable, in its order and each in its range, grouped fields in the order of Table 8-1, and no other 32 bytes
are (R36, R183). The codes of the rates (Table 1-1) and sensitivities, and the bytes of a set or cleared field, are stated too. -/
def Obligations.WriteStationReplacesTheConfiguration : Prop :=
  (∀ (gap : Nat) (r : Request) (s : State) (n : StationNo),
     requestCarries r 5 32 → r.target = n.val → s.offers r →
     let u := s.taken gap
     let old := (s.station n).config
     (stationConfigOf old.enable (r.delivered.take 32) = none →
       exec (.writeStation gap r) s = .next (finish (refuse r .badRequest u))) ∧
     (∀ c, stationConfigOf old.enable (r.delivered.take 32) = some c →
       ((s.station n).run.state ≠ .disabled → (c.code ≠ old.code ∨ c.shape ≠ old.shape ∨ c.rate ≠ old.rate) →
         exec (.writeStation gap r) s = .next (finish (refuse r .refusedState u))) ∧
       ((s.station n).run.state = .disabled ∨ (c.code = old.code ∧ c.shape = old.shape ∧ c.rate = old.rate) →
         exec (.writeStation gap r) s = .next (finish (answerRequest r .ok [] (u.setConfig n c)))))) ∧
  (∀ (enable : Bool) (p : List Byte) (c : StationConfig), p.length = 32 →
     (stationConfigOf enable p = some c ↔
       c.enable = enable ∧ c.code ≤ 65534 ∧ c.shape.code ≤ 65535 ∧ c.shape.phasors ≤ 32 ∧ c.shape.analogs ≤ 8 ∧
       c.snapTol ≤ 500 ∧ c.quality ≤ 15 ∧ 1 ≤ c.acquire ∧ c.acquire ≤ 32 ∧ 1 ≤ c.silence ∧ c.silence ≤ 60 ∧
       c.thresholds.late ≤ 65535 ∧ c.thresholds.missing ≤ 65535 ∧ c.thresholds.reject ≤ 65535 ∧
       p = be16 c.code ++ be16 c.shape.code ++ be8 c.shape.phasors ++ be8 c.shape.analogs ++ be8 c.rate.code ++
         be16 c.snapTol ++ be8 c.quality ++ be8 c.acquire ++
         be8 (match c.acqLimit with | .s30 => 0 | .s60 => 1 | .off => 2) ++ be8 c.silence ++ beFlag c.hold ++
         beFlag c.shapeAuto ++ beFlag c.reacquire ++
         beFlag c.enables.late ++ beFlag c.enables.offGrid ++ beFlag c.enables.short ++ beFlag c.enables.silent ++
         beFlag c.enables.suspectTime ++
         be8 c.sens.late.code ++ be8 c.sens.offGrid.code ++ be8 c.sens.short.code ++ be8 c.sens.silent.code ++
         be8 c.sens.suspectTime.code ++
         be16 c.thresholds.late ++ be16 c.thresholds.missing ++ be16 c.thresholds.reject)) ∧
  ([.r10, .r12, .r15, .r20, .r25, .r30, .r50, .r60, .r100, .r120] : List RateCode).map RateCode.code =
    [1, 2, 3, 4, 5, 6, 7, 8, 9, 10] ∧
  ([.edge, .level] : List Sensitivity).map Sensitivity.code = [0, 1] ∧ beFlag false = [0] ∧ beFlag true = [1]

/-- EXCHANGE_STATION (R62, R63): a field outside its range is answered BAD_REQUEST; the reports of the station are withdrawn
from every record and their slots freed (R82), its code leaves the Code Map and the new one enters, deferred answers end
ABORTED, the descriptor is replaced with a cleared run state, one notice is pushed, and a station that was ADMITTED leaves the
awaited sets; the answer carries the outgoing context, in which the coding of a latch as 1 for SET is log 16. The enable byte is
0 or 1. -/
def Obligations.ExchangeStationReplacesTheDescriptor : Prop :=
  (∀ (gap : Nat) (r : Request) (s : State) (n : StationNo),
     requestCarries r 6 33 → r.target = n.val → s.offers r →
     (∀ enable, flagAt (r.delivered.take 33) 0 = some enable →
       stationConfigOf enable ((r.delivered.take 33).drop 1) = none) →
     exec (.exchangeStation gap r) s = .next (finish (refuse r .badRequest (s.taken gap)))) ∧
  (∀ (gap : Nat) (r : Request) (s : State) (n : StationNo) (enable : Bool) (c : StationConfig),
     requestCarries r 6 33 → r.target = n.val → s.offers r →
     flagAt (r.delivered.take 33) 0 = some enable →
     stationConfigOf enable ((r.delivered.take 33).drop 1) = some c →
     let u := s.taken gap
     let x := s.station n
     let new : StationState := if enable then .awaiting else .disabled
     (enable = true → c.code = 0 → exec (.exchangeStation gap r) s = .next (finish (refuse r .badRequest u))) ∧
     (∀ m, enable = true → c.code ≠ 0 → codeLookup s.codeMap c.code = some m → m ≠ n →
       exec (.exchangeStation gap r) s = .next (finish (refuse r .codeInUse u))) ∧
     (enable = false ∨ (c.code ≠ 0 ∧ ∀ m, codeLookup s.codeMap c.code = some m → m = n) →
       let v : State := { u with
         timeline := s.timeline.map (fun q => { q with arrivals := q.arrivals.filter (fun e => e.1 ≠ n) })
         freeSlots := s.freeSlots + (s.timeline.map (fun q => (q.arrivals.filter (fun e => e.1 = n)).length)).sum }
       let v := if x.run.state = .disabled then v else { v with codeMap := codeRemove x.config.code n v.codeMap }
       let v := (completeDeferrals n .aborted v).setStation n ⟨c, clearedStationRun new⟩
       let v := if enable then { v with codeMap := codeInsert c.code n v.codeMap } else v
       let v := pushNotice (.stationState n x.run.state new .exchange) v
       exec (.exchangeStation gap r) s = .next (finish (answerRequest r .ok
         (be16 x.config.code ++ be8 x.run.state.code ++ be16 x.run.counters.late ++ be16 x.run.counters.missing ++
           be16 x.run.counters.reject ++ be32 (max x.run.curMax x.run.prevMax) ++ beFlag x.run.latches.late.set ++
           beFlag x.run.latches.offGrid.set ++ beFlag x.run.latches.short.set ++ beFlag x.run.latches.silent.set ++
           beFlag x.run.latches.suspectTime.set)
         (if x.run.state = .admitted then leaveAwaited n v else v))))) ∧
  (∀ (p : List Byte) (i : Nat) (b : Bool), flagAt p i = some b ↔ byteAt p i = if b then 1 else 0)

/-- READ_COUNTERS returns the three counters and sets them to 0, in any state of the station (R159). -/
def Obligations.ReadCountersReturnsAndClears : Prop :=
  ∀ (gap : Nat) (r : Request) (s : State) (n : StationNo),
    requestCarries r 11 0 → r.target = n.val → s.offers r →
    exec (.readCounters gap r) s = .next (finish (answerRequest r .ok
      (be16 (s.station n).run.counters.late ++ be16 (s.station n).run.counters.missing ++
        be16 (s.station n).run.counters.reject)
      ((s.taken gap).setRun n { (s.station n).run with counters := ⟨0, 0, 0⟩ })))

/-! ## Conditions, counters and notices -/

/-- CLEAR_CONDITIONS (R155, R187): on a station each named latch is cleared in the order of Table 8-1, and one whose persistent
cause is true and enabled is set again with a notice of origin CLEAR; on a line link the UNKNOWN_CODE latch and its code are
cleared; a mask that names a condition the subject does not have is refused. -/
def Obligations.ClearConditionsClearsTheNamedLatches : Prop :=
  ∀ (gap : Nat) (r : Request) (s : State), requestCarries r 12 2 → s.offers r →
    let u := s.taken gap
    let subject := byteAt (r.delivered.take 2) 0
    let mask := byteAt (r.delivered.take 2) 1
    (∀ n : StationNo, r.target = n.val → subject = 1 → mask < 32 →
      exec (.clearConditions gap r) s = .next (finish (answerRequest r .ok []
        (([.late, .offGrid, .short, .silent, .suspectTime] : List Condition).foldl
          (fun s c => if mask / 2 ^ c.code % 2 = 1 then clearLatch n c s else s) u)))) ∧
    (∀ n : StationNo, r.target = n.val → subject = 1 → 32 ≤ mask →
      exec (.clearConditions gap r) s = .next (finish (refuse r .badRequest u))) ∧
    (∀ l : LineId, r.target = l.val → subject = 2 → mask = 32 →
      exec (.clearConditions gap r) s = .next (finish (answerRequest r .ok []
        (u.setLine l { s.line l with latchSet := false, latchPending := none, latchCode := none })))) ∧
    (∀ l : LineId, r.target = l.val → subject = 2 → mask = 0 →
      exec (.clearConditions gap r) s = .next (finish (answerRequest r .ok [] u))) ∧
    (∀ l : LineId, r.target = l.val → subject = 2 → mask ≠ 0 → mask ≠ 32 →
      exec (.clearConditions gap r) s = .next (finish (refuse r .badRequest u))) ∧
    (subject ≠ 1 ∧ subject ≠ 2 ∨ subject = 1 ∧ 1024 ≤ r.target ∨ subject = 2 ∧ 4 ≤ r.target →
      exec (.clearConditions gap r) s = .next (finish (refuse r .badTarget u)))

/-- A rising edge (R153): ignored when the condition is not enabled, absorbed by a SET latch; a CLEAR latch becomes SET and
pushes its notice, which is the latch's pending notice unless the full queue drops it. CLEAR_CONDITIONS on one latch (R155). A
counter rises by 1, stays at 65,535, and pushes a COUNTER notice exactly when the increment leaves it equal to its non-zero
threshold (R158). The counts of ports, streams, the Timeline and the inputs rise by 1 to 65,535 and stay there (`satInc`). -/
def Obligations.LatchesRiseAndClearAndCountersSaturate : Prop :=
  (∀ (n : StationNo) (c : Condition) (s : State),
     let x := s.station n
     let pending := if s.notices.queue.length < 256 then some s.notices.serial else none
     let set := fun origin => pushNotice (.condition n c (x.config.sens.get c) origin)
       (s.setRun n { x.run with latches := x.run.latches.put c ⟨true, pending⟩ })
     (x.config.enables.get c = false → risingEdge n c s = s) ∧
     ((x.run.latches.get c).set = true → risingEdge n c s = s) ∧
     (x.config.enables.get c = true → (x.run.latches.get c).set = false → risingEdge n c s = set .edge) ∧
     (x.config.enables.get c = true ∧ (c = .silent ∧ x.run.state = .silent ∨
         c = .suspectTime ∧ x.run.suspect = true ∧ x.run.state ≠ .disabled) →
       clearLatch n c s = set .clear) ∧
     (¬(x.config.enables.get c = true ∧ (c = .silent ∧ x.run.state = .silent ∨
         c = .suspectTime ∧ x.run.suspect = true ∧ x.run.state ≠ .disabled)) →
       clearLatch n c s = s.setRun n { x.run with latches := x.run.latches.put c ⟨false, none⟩ })) ∧
  (∀ (n : StationNo) (c : CounterId) (s : State),
     let v := (s.station n).run.counters.get c
     let up := s.setRun n { (s.station n).run with counters := (s.station n).run.counters.put c (v + 1) }
     (65535 ≤ v → countStation n c s = s) ∧
     (v < 65535 → (s.station n).config.thresholds.get c ≠ v + 1 → countStation n c s = up) ∧
     (v < 65535 → (s.station n).config.thresholds.get c = v + 1 →
       countStation n c s = pushNotice (.counter n c (v + 1)) up)) ∧
  (∀ c : Nat, satInc c = if c < 65535 then c + 1 else c)

/-- The Notice Queue (R160, R174): a push joins the tail with the local time, or at 256 notices is dropped and sets the overflow
flag; the beginning of a notice frame takes the up to 8 oldest notices and the flag into the frame that goes out, addressed to
the notice destination, and clears the flag, and each of them acts on its latch (R154): a latch's pending notice becomes absent,
an EDGE latch becomes CLEAR and a LEVEL latch stays as it is; a notice that no latch holds as pending acts on nothing. An
UNKNOWN_CODE notice that its line link's latch holds as pending makes this latch CLEAR, without pending notice and code (R151,
R154); no other kind of notice acts on anything. The bytes of a notice frame and of every kind of notice are those of Tables 9-6
to 9-8, with the codes listed under Table 9-7. The serials by which a latch knows its notice are log 10. -/
def Obligations.NoticesJoinTheTailAndLeaveInFrames : Prop :=
  (∀ (s : State),
     (∀ b, s.notices.queue.length < 256 → pushNotice b s = { s with notices :=
       ⟨s.notices.queue ++ [⟨s.notices.serial, s.localTime, b⟩], s.notices.overflow, s.notices.serial + 1⟩ }) ∧
     (∀ b, 256 ≤ s.notices.queue.length → pushNotice b s = { s with notices := { s.notices with overflow := true } }) ∧
     (∀ c, beginNotices c s = (fun t : State => t.setCenter c { t.center c with tx := some (.notices (ownFrame s
         s.globals.noticeDestination 5 (noticeContent (s.notices.queue.take 8) s.notices.overflow))) })
       ((s.notices.queue.take 8).foldl (fun t m => departNotice m t)
         { s with notices := ⟨s.notices.queue.drop 8, false, s.notices.serial⟩ }))) ∧
  (∀ (s : State) (serial : Nat) (time : GridTime) (n : StationNo) (c : Condition) (g : Sensitivity) (o : ConditionOrigin),
     let x := s.station n
     let l := x.run.latches.get c
     let m : Notice := ⟨serial, time, .condition n c g o⟩
     (l.pending ≠ some serial → departNotice m s = s) ∧
     (l.pending = some serial → x.config.sens.get c = .edge →
       departNotice m s = s.setRun n { x.run with latches := x.run.latches.put c ⟨false, none⟩ }) ∧
     (l.pending = some serial → x.config.sens.get c = .level →
       departNotice m s = s.setRun n { x.run with latches := x.run.latches.put c ⟨l.set, none⟩ })) ∧
  (∀ (s : State) (serial : Nat) (time : GridTime) (l : LineId) (code : Nat),
     let m : Notice := ⟨serial, time, .unknownCode l code⟩
     ((s.line l).latchPending ≠ some serial → departNotice m s = s) ∧
     ((s.line l).latchPending = some serial → departNotice m s =
       s.setLine l { s.line l with latchSet := false, latchPending := none, latchCode := none })) ∧
  (∀ (m : Notice) (s : State), (∀ n c g o, m.body ≠ .condition n c g o) → (∀ l code, m.body ≠ .unknownCode l code) →
     departNotice m s = s) ∧
  (∀ (l : List Notice) (overflow : Bool),
     noticeContent l overflow = be8 l.length ++ (if overflow then [1] else [0]) ++ [0, 0] ++ l.flatMap noticeBytes) ∧
  (∀ (serial : Nat) (time : GridTime) (n : StationNo) (k : StreamNo) (i : InputId) (l : LineId) (tag v : Nat)
     (ms : Int) (ext : List Byte),
     let fixed := fun kind subject number : Nat =>
       be8 kind ++ be8 subject ++ be16 number ++ be32 time.sec ++ be32 time.ns
     let bytes := fun body => noticeBytes ⟨serial, time, body⟩
     (∀ old new c, bytes (.stationState n old new c) =
       fixed 1 1 n.val ++ be8 old.code ++ be8 new.code ++ be8 c.code ++ [0]) ∧
     (∀ c g, bytes (.condition n c g .edge) = fixed 2 1 n.val ++ be8 c.code ++ be8 g.code ++ [0, 0] ∧
       bytes (.condition n c g .clear) = fixed 2 1 n.val ++ be8 c.code ++ be8 g.code ++ [1, 0]) ∧
     (∀ c, bytes (.counter n c v) = fixed 3 1 n.val ++ be8 c.code ++ [0] ++ be16 v) ∧
     (∀ old new c, bytes (.streamState k old new c) =
       fixed 4 3 k.val ++ be8 old.code ++ be8 new.code ++ be8 c.code ++ [0]) ∧
     bytes (.setDiscarded k .overrun v) = fixed 5 3 k.val ++ [0] ++ be24 (v % 16777216) ∧
     bytes (.setDiscarded k .link v) = fixed 5 3 k.val ++ [1] ++ be24 (v % 16777216) ∧
     (∀ old new c, bytes (.timebaseState old new c) =
       fixed 6 4 0 ++ be8 old.code ++ be8 new.code ++ be8 c.code ++ [0]) ∧
     (∀ old new c, bytes (.inputState i old new c) =
       fixed 7 5 (match i with | .a => 0 | .b => 1) ++ be8 old.code ++ be8 new.code ++ be8 c.code ++ [0]) ∧
     bytes (.timeStep ms) = fixed 8 4 0 ++ be32 (BitVec.ofInt 32 ms).toNat ∧
     bytes (.unknownCode l v) = fixed 9 2 l.val ++ [0, 0] ++ be16 v ∧
     bytes (.snapshot (.station n) tag ext) = fixed 10 1 n.val ++ [0, 0] ++ be16 tag ++ ext ∧
     bytes (.snapshot (.stream k) tag ext) = fixed 10 3 k.val ++ [0, 0] ++ be16 tag ++ ext ∧
     bytes (.snapshot .timebase tag ext) = fixed 10 4 0 ++ [0, 0] ++ be16 tag ++ ext) ∧
  (([.disabled, .awaiting, .acquiring, .held, .admitted, .silent, .shapePending, .shapeHeld] : List StationState).map
       StationState.code = List.range 8 ∧
     ([.enable, .disable, .exchange, .firstReport, .acquired, .acquireFailed, .admission, .silence, .resumed, .reacquire,
       .shapeChange, .shapeConfirmed, .shapeAdopted, .shapeReverted, .accept] : List StationCause).map StationCause.code =
         List.range 15 ∧
     ([.late, .offGrid, .short, .silent, .suspectTime] : List Condition).map Condition.code = List.range 5 ∧
     ([.edge, .level] : List Sensitivity).map Sensitivity.code = List.range 2 ∧
     ([.late, .missing, .reject] : List CounterId).map CounterId.code = List.range 3 ∧
     ([.stopped, .running, .draining] : List StreamState).map StreamState.code = List.range 3 ∧
     ([.start, .drain, .drained, .cut, .flushed, .stepped] : List StreamCause).map StreamCause.code = List.range 6 ∧
     ([.free, .locked .a, .locked .b, .holdover] : List TimebaseMode).map TimebaseMode.code = List.range 4 ∧
     ([.qualified, .switchover, .lost, .revert, .holdoverExpired] : List TimebaseCause).map TimebaseCause.code =
       List.range 5 ∧
     ([.absent, .qualifying, .qualified] : List InputQual).map InputQual.code = List.range 3 ∧
     ([.firstMarker, .qualified, .badSecond, .loss] : List InputCause).map InputCause.code = List.range 4)

/-- SNAPSHOT pushes one SNAPSHOT notice with the request's tag and the subject's state, and is answered OK; it is answered
BAD_TARGET when its subject is absent and QUEUE_FULL at a full queue, and then changes nothing (R165, R187). The subjects are a
station, a stream and the Timebase (R187), and the 32 bytes of each stand at the offsets of Table 9-9, its timers in milliseconds,
rounded up (Table 8-5). Of the codings, that TIME_KNOWN and first setting pending are 1 for set or yes and 0 otherwise, and that
the bit of a latch is 1 when it is SET, is the model's choice, log 16: the manual gives none for a notice extension. -/
def Obligations.SnapshotPushesOneNotice : Prop :=
  (∀ (gap : Nat) (r : Request) (s : State), requestCarries r 23 1 → s.offers r →
     let u := s.taken gap
     let subject := snapSubject (byteAt (r.delivered.take 1) 0) r.target
     (subject = none → exec (.snapshot gap r) s = .next (finish (refuse r .badTarget u))) ∧
     (∀ x, subject = some x → 256 ≤ s.notices.queue.length →
       exec (.snapshot gap r) s = .next (finish (refuse r .queueFull u))) ∧
     (∀ x, subject = some x → s.notices.queue.length < 256 → (snapshotBytes u x).length = 32 ∧
       exec (.snapshot gap r) s =
         .next (finish (answerRequest r .ok [] (pushNotice (.snapshot x r.tag (snapshotBytes u x)) u))))) ∧
  (∀ (kind target : Nat) (x : SnapSubject), snapSubject kind target = some x ↔
     (∃ n : StationNo, kind = 1 ∧ target = n.val ∧ x = .station n) ∨
     (∃ k : StreamNo, kind = 3 ∧ target = k.val ∧ x = .stream k) ∨ kind = 4 ∧ x = .timebase) ∧
  (∀ (s : State) (n : StationNo) (k : StreamNo),
     let timer := fun e : Option Nat => match e with
       | some e => be32 ((999999 + (e - s.elapsed)) / 1000000)
       | none => [0xFF, 0xFF, 0xFF, 0xFF]
     let c := (s.station n).config
     let x := (s.station n).run
     let y := (s.stream k).run
     let tb := s.timebase
     snapshotBytes s (.station n) = be16 c.code ++ be8 x.state.code ++
       be8 (match x.returnState with | some .acquiring => 2 | some .held => 3 | some .admitted => 4 | none => 255) ++
       be8 x.goodCount ++ be8 x.confirmations ++
       be8 ((if x.latches.late.set then 1 else 0) + (if x.latches.offGrid.set then 2 else 0) +
         (if x.latches.short.set then 4 else 0) + (if x.latches.silent.set then 8 else 0) +
         (if x.latches.suspectTime.set then 16 else 0)) ++ [0] ++
       be16 x.counters.late ++ be16 x.counters.missing ++ be16 x.counters.reject ++ [0, 0] ++
       be32 (max x.curMax x.prevMax) ++ timer x.acqTimer ++ timer x.silenceTimer ++ [0, 0, 0, 0] ∧
     snapshotBytes s (.stream k) = be8 y.state.code ++ be8 y.queue.length ++
       be16 (s.timeline.countP (fun q => match q.windows[k].state with
         | .opened => true | .ready _ => false | .notUsed => false | .closed _ => false)) ++
       be16 (s.timeline.countP (fun q => match q.windows[k].state with
         | .opened => false | .ready _ => true | .notUsed => false | .closed _ => false)) ++ [0, 0] ++
       be32 y.floor.sec ++ be32 y.floor.ns ++ be32 y.nextSeq ++ be16 y.built ++ be16 y.sent ++ be16 y.discarded ++
       be16 y.forced ++ [0, 0, 0, 0] ∧
     snapshotBytes s .timebase = be8 tb.mode.code ++ (if tb.timeKnown then [1] else [0]) ++
       (if tb.firstPending then [1] else [0]) ++ [0] ++ be32 tb.localTime.sec ++ be32 tb.localTime.ns ++
       timer tb.holdoverTimer ++ be8 tb.inputA.qual.code ++ be8 tb.inputA.goodSeconds ++ be8 tb.inputB.qual.code ++
       be8 tb.inputB.goodSeconds ++ [0, 0, 0, 0, 0, 0, 0, 0, 0, 0, 0, 0])

/-! ## Requests that read, and requests that are refused -/

/-- The reading requests answer OK with what they return and change nothing else (R39, R83, R88, R120, R149, R177, R185, R186);
READ_PLAN judges its count and its bounds (R120), READ_TIMELINE the nanoseconds of the instant it names (R184). The bytes of the
configurations, run states, plan entries, records, the Timebase, the links and the Timeline are stated beside this, field by
field in the order of their tables (R183). Of the codings, those of a field of yes or no, of a latch and of a link state are log
16. -/
def Obligations.ReadRequestsChangeNothing : Prop :=
  (∀ (gap : Nat) (r : Request) (s : State), s.offers r →
     let u := s.taken gap
     (requestCarries r 1 0 → exec (.identify gap r) s = .next (finish (answerRequest r .ok
       (be32 s.unitNumber ++ be16 1 ++ be16 4 ++ be16 2 ++ be16 1024 ++ be16 512 ++ be16 16384 ++ be16 8 ++ be16 4096 ++
         be16 16 ++ be16 256 ++ be16 4) u))) ∧
     (requestCarries r 2 0 → exec (.readGlobal gap r) s = .next (finish (answerRequest r .ok (globalsBytes s.globals) u))) ∧
     (∀ n : StationNo, requestCarries r 4 0 → r.target = n.val → exec (.readStation gap r) s = .next (finish
       (answerRequest r .ok
         (stationConfigBytes (s.station n).config ++ stationRunBytes (s.elapsed + gap) (s.station n).run) u))) ∧
     (∀ k : StreamNo, requestCarries r 13 0 → r.target = k.val → exec (.readStream gap r) s = .next (finish
       (answerRequest r .ok (streamBytes s k) u))) ∧
     (∀ k : StreamNo, requestCarries r 17 3 → r.target = k.val →
       let start := numAt16 (r.delivered.take 3) 0
       let count := byteAt (r.delivered.take 3) 2
       (count = 0 ∨ 64 < count → exec (.readPlan gap r) s = .next (finish (refuse r .badRequest u))) ∧
       (1 ≤ count → count ≤ 64 → (s.stream k).config.planLength < start + count →
         exec (.readPlan gap r) s = .next (finish (refuse r .outOfBounds u))) ∧
       (1 ≤ count → count ≤ 64 → start + count ≤ (s.stream k).config.planLength →
         exec (.readPlan gap r) s = .next (finish (answerRequest r .ok
           ((((s.plan.toList.drop ((s.stream k).config.planBase)).take (s.stream k).config.planLength).drop start).take
             count |>.flatMap planEntryBytes) u)))) ∧
     (requestCarries r 19 0 → exec (.readTimeline gap r) s = .next (finish
       (answerRequest r .ok (timelineSummary s ++ be8 0) u))) ∧
     (requestCarries r 19 8 →
       let t : GridTime := ⟨numAt32 (r.delivered.take 8) 0, numAt32 (r.delivered.take 8) 4⟩
       (t.ns < 1000000000 → exec (.readTimeline gap r) s = .next (finish
         (answerRequest r .ok (timelineSummary s ++ match recordAt s t with
           | none => be8 1
           | some x => be8 2 ++ recordBytes x) u))) ∧
       (1000000000 ≤ t.ns → exec (.readTimeline gap r) s = .next (finish (refuse r .badRequest u)))) ∧
     (requestCarries r 20 0 → exec (.readTimebase gap r) s = .next (finish
       (answerRequest r .ok (timebaseBytes (s.runClock gap)) u))) ∧
     (∀ l : LineId, requestCarries r 22 0 → r.target = l.val → exec (.readPort gap r) s = .next (finish
       (answerRequest r .ok (lineBytes (s.line l)) u))) ∧
     (∀ c, requestCarries r 22 0 → r.target = 4 + centerCode c → exec (.readPort gap r) s = .next (finish
       (answerRequest r .ok (centerBytes s c) u)))) ∧
  (∀ (g : Globals) (c : StationConfig) (now : Nat) (x : StationRun) (l : LineLink) (r : Record) (s : State) (k : StreamNo)
     (center : CenterId),
     let flag := fun b : Bool => if b then ([1] : List Byte) else [0]
     let up := fun b : Bool => if b then ([0] : List Byte) else [1]
     let link := fun c : CenterId => match c with | .c0 => ([0] : List Byte) | .c1 => [1]
     let input := fun i : InputId => match i with | .a => ([0] : List Byte) | .b => [1]
     let grid := fun t : Option GridTime => match t with
       | some t => be32 t.sec ++ be32 t.ns
       | none => [0xFF, 0xFF, 0xFF, 0xFF, 0xFF, 0xFF, 0xFF, 0xFF]
     let timer := fun (now : Nat) (e : Option Nat) => match e with
       | some e => be32 ((999999 + (e - now)) / 1000000)
       | none => [0xFF, 0xFF, 0xFF, 0xFF]
     let counters := fun p : PerCounter => be16 p.late ++ be16 p.missing ++ be16 p.reject
     globalsBytes g = be16 g.transportType ++ be16 g.futureTolerance ++ link g.noticeLink ++ be16 g.noticeDestination ++
       link g.throughLink ++ be8 ((if g.mask0 then 1 else 0) + (if g.mask1 then 2 else 0)) ∧
     stationConfigBytes c = flag c.enable ++ be16 c.code ++ be16 c.shape.code ++ be8 c.shape.phasors ++
       be8 c.shape.analogs ++ be8 c.rate.code ++ be16 c.snapTol ++ be8 c.quality ++ be8 c.acquire ++
       be8 (match c.acqLimit with | .s30 => 0 | .s60 => 1 | .off => 2) ++ be8 c.silence ++ flag c.hold ++
       flag c.shapeAuto ++ flag c.reacquire ++
       (flag c.enables.late ++ flag c.enables.offGrid ++ flag c.enables.short ++ flag c.enables.silent ++
         flag c.enables.suspectTime) ++
       (be8 c.sens.late.code ++ be8 c.sens.offGrid.code ++ be8 c.sens.short.code ++ be8 c.sens.silent.code ++
         be8 c.sens.suspectTime.code) ++ counters c.thresholds ∧
     stationRunBytes now x = be8 x.state.code ++
       be8 (match x.returnState with | some .acquiring => 2 | some .held => 3 | some .admitted => 4 | none => 255) ++
       (match x.pendingShape with
         | some p => [1] ++ (be16 p.code ++ be8 p.phasors ++ be8 p.analogs)
         | none => [0, 0, 0, 0, 0]) ++
       be8 x.confirmations ++ be8 x.goodCount ++ grid x.lastFresh ++ timer now x.acqTimer ++ timer now x.silenceTimer ++
       be32 x.curMax ++ be32 x.prevMax ++ flag x.suspect ++ counters x.counters ++
       (flag x.latches.late.set ++ flag x.latches.offGrid.set ++ flag x.latches.short.set ++ flag x.latches.silent.set ++
         flag x.latches.suspectTime.set) ++ be8 x.deferrals.length ++ be32 (max x.curMax x.prevMax) ∧
     (let c := (s.stream k).config
      let y := (s.stream k).run
      streamBytes s k = be8 c.rate.code ++ link c.link ++ be16 c.destination ++ be8 c.priority ++ be16 c.planBase ++
        be16 c.planLength ++ flag c.adaptive ++ be16 c.fixedWait ++ be16 c.floorWait ++ be16 c.ceilingWait ++
        be16 c.margin ++ flag c.closeOnComplete ++
        be8 (match y.state with | .stopped => 0 | .running => 1 | .draining => 2) ++ grid (some y.floor) ++
        grid (some y.mark) ++ be32 y.nextSeq ++ flag y.discontinuity ++ be16 y.built ++ be16 y.sent ++
        be16 y.discarded ++ be16 y.forced ++ be8 y.queue.length ++ flag y.pendingStop.isSome ++
        be16 (s.timeline.countP (fun q => match q.windows[k].state with
          | .opened => true | .ready _ => false | .notUsed => false | .closed _ => false)) ++
        be16 (s.timeline.countP (fun q => match q.windows[k].state with
          | .opened => false | .ready _ => true | .notUsed => false | .closed _ => false)) ++
        grid ((s.timeline.find? (fun q => match q.windows[k].state with
          | .opened => true | .ready _ => true | .notUsed => false | .closed _ => false)).map (·.instant))) ∧
     (∀ e : PlanEntry, planEntryBytes e = be16 e.station.val ++ match e.selector with
       | .phasor i => be8 0 ++ be8 i.val
       | .frequency => [1, 0]
       | .rocof => [2, 0]
       | .analog i => be8 3 ++ be8 i.val
       | .status => [4, 0]
       | .unused => [5, 0]) ∧
     timelineSummary s = be16 s.timeline.length ++ be16 s.freeSlots ++ be16 s.forcedCloses ++ be16 s.storeDiscards ++
       grid (s.timeline.head?.map (·.instant)) ++ grid (s.timeline.getLast?.map (·.instant)) ∧
     recordBytes r = (match r.cause with | .schedule => ([0] : List Byte) | .arrival => [1]) ++ be16 r.arrivals.length ++
       allStreams.flatMap (fun k =>
         be8 (match r.windows[k].state with | .notUsed => 0 | .opened => 1 | .ready _ => 2 | .closed _ => 3) ++
         be16 r.windows[k].awaited.length ++ grid r.windows[k].deadline ++
         be8 (match r.windows[k].state with
           | .closed c => c.code | .notUsed => 255 | .opened => 255 | .ready _ => 255) ++ be16 r.windows[k].late) ∧
     (let tb := s.timebase
      let one := fun y : RefInput => be8 y.qual.code ++ be8 y.goodSeconds ++
        (match y.lastSecond with | some l => [1] ++ be32 l | none => [0, 0, 0, 0, 0]) ++ be8 y.missed ++
        flag y.message.isSome ++ be16 y.glitches ++ be16 y.messageErrors
      timebaseBytes s = (match tb.mode with
          | .free => ([0, 0xFF] : List Byte) | .locked i => [1] ++ input i | .holdover => [2, 0xFF]) ++
        flag tb.firstPending ++ flag tb.timeKnown ++ grid (some tb.localTime) ++ timer s.elapsed tb.holdoverTimer ++
        input tb.preferred ++ flag tb.revert ++ be16 tb.holdoverLimit ++ one tb.inputA ++ one tb.inputB) ∧
     lineBytes l = up l.up ++ be16 l.received ++ be16 l.checkFailures ++ be16 l.queueDrops ++ be8 l.queue.length ++
       flag l.latchSet ++ (match l.latchCode with | some code => [1] ++ be16 code | none => [0, 0, 0]) ∧
     centerBytes s center = up (s.center center).up ++ be16 (s.center center).received ++
       be16 (s.center center).checkFailures ++ be16 (s.center center).drops ++ be8 (s.center center).answers.length ++
       be8 (if s.globals.throughLink = center then s.passThrough.length else 255))

/-- The common refusals (R184): an invalid kind or WAIT flag and a wrong or undelivered payload length are answered BAD_REQUEST,
a station target above 1,023, a stream target above 7 and a port target above 5 BAD_TARGET; nothing else changes. An answer
joins the tail of a link's answer queue, and at 8 answers it is dropped (R171); the answer to a request carries the request's
source, tag, kind and target, on the link it arrived on, and a refusal is an answer with an empty payload (R182). -/
def Obligations.CommonRefusalsChangeNothing : Prop :=
  (∀ (gap : Nat) (r : Request) (s : State), s.offers r →
     let bad := (.next (finish (refuse r .badRequest (s.taken gap))) : Answered)
     let lost := (.next (finish (refuse r .badTarget (s.taken gap))) : Answered)
     (¬(1 ≤ r.kind ∧ r.kind ≤ 26 ∧ r.wait ≤ 1) → exec (.badRequestKind gap r) s = bad) ∧
     (requestFailsLength r 1 0 → exec (.identify gap r) s = bad) ∧
     (requestFailsLength r 2 0 → exec (.readGlobal gap r) s = bad) ∧
     (requestFailsLength r 3 9 → exec (.writeGlobal gap r) s = bad) ∧
     (requestFailsLength r 4 0 → exec (.readStation gap r) s = bad) ∧
     (requestFailsLength r 5 32 → exec (.writeStation gap r) s = bad) ∧
     (requestFailsLength r 6 33 → exec (.exchangeStation gap r) s = bad) ∧
     (requestFailsLength r 7 0 → exec (.enableStation gap r) s = bad) ∧
     (requestFailsLength r 8 0 → exec (.disableStation gap r) s = bad) ∧
     (requestFailsLength r 9 0 → exec (.admitStation gap r) s = bad) ∧
     (requestFailsLength r 10 0 → exec (.acceptShape gap r) s = bad) ∧
     (requestFailsLength r 11 0 → exec (.readCounters gap r) s = bad) ∧
     (requestFailsLength r 12 2 → exec (.clearConditions gap r) s = bad) ∧
     (requestFailsLength r 13 0 → exec (.readStream gap r) s = bad) ∧
     (requestFailsLength r 14 19 → exec (.writeStream gap r) s = bad) ∧
     (requestFailsLength r 15 0 → exec (.startStream gap r) s = bad) ∧
     (requestFailsLength r 16 1 →
       (stopMode r = some 0 → exec (.stopStreamDrain gap r) s = bad) ∧
       (stopMode r = some 1 → exec (.stopStreamCut gap r) s = bad) ∧
       (stopMode r ≠ some 0 → stopMode r ≠ some 1 → exec (.stopStreamBadMode gap r) s = bad)) ∧
     (requestFailsLength r 17 3 → exec (.readPlan gap r) s = bad) ∧
     (requestFailsLength r 18 (3 + 4 * byteAt r.delivered 2) → exec (.writePlan gap r) s = bad) ∧
     (requestFailsLength r 19 0 → requestFailsLength r 19 8 → exec (.readTimeline gap r) s = bad) ∧
     (requestFailsLength r 20 0 → exec (.readTimebase gap r) s = bad) ∧
     (requestFailsLength r 21 4 → exec (.writeTimebase gap r) s = bad) ∧
     (requestFailsLength r 22 0 → exec (.readPort gap r) s = bad) ∧
     (requestFailsLength r 23 1 → exec (.snapshot gap r) s = bad) ∧
     (requestFailsLength r 24 0 → exec (.flush gap r) s = bad) ∧
     (requestFailsLength r 25 0 → exec (.resetWarm gap r) s = bad) ∧
     (requestFailsLength r 26 0 → exec (.resetCold gap r) s = bad) ∧
     (1024 ≤ r.target →
       (requestCarries r 4 0 → exec (.readStation gap r) s = lost) ∧
       (requestCarries r 5 32 → exec (.writeStation gap r) s = lost) ∧
       (requestCarries r 6 33 → exec (.exchangeStation gap r) s = lost) ∧
       (requestCarries r 7 0 → exec (.enableStation gap r) s = lost) ∧
       (requestCarries r 8 0 → exec (.disableStation gap r) s = lost) ∧
       (requestCarries r 9 0 → exec (.admitStation gap r) s = lost) ∧
       (requestCarries r 10 0 → exec (.acceptShape gap r) s = lost) ∧
       (requestCarries r 11 0 → exec (.readCounters gap r) s = lost)) ∧
     (8 ≤ r.target →
       (requestCarries r 13 0 → exec (.readStream gap r) s = lost) ∧
       (requestCarries r 14 19 → exec (.writeStream gap r) s = lost) ∧
       (requestCarries r 15 0 → exec (.startStream gap r) s = lost) ∧
       (requestCarries r 16 1 → stopMode r = some 0 → exec (.stopStreamDrain gap r) s = lost) ∧
       (requestCarries r 16 1 → stopMode r = some 1 → exec (.stopStreamCut gap r) s = lost) ∧
       (requestCarries r 16 1 → stopMode r ≠ some 0 → stopMode r ≠ some 1 →
         exec (.stopStreamBadMode gap r) s = lost) ∧
       (requestCarries r 17 3 → exec (.readPlan gap r) s = lost) ∧
       (requestCarries r 18 (3 + 4 * byteAt r.delivered 2) → exec (.writePlan gap r) s = lost)) ∧
     (6 ≤ r.target → requestCarries r 22 0 → exec (.readPort gap r) s = lost)) ∧
  (∀ (c : CenterId) (a : Answer) (r : Request) (x : Result) (p : List Byte) (s : State),
     ((s.center c).answers.length < 8 →
       placeAnswer c a s = s.setCenter c { s.center c with answers := (s.center c).answers ++ [a] }) ∧
     (8 ≤ (s.center c).answers.length → placeAnswer c a s = s) ∧
     answerRequest r x p s = placeAnswer r.link ⟨r.source, r.tag, r.kind, r.target, x, p⟩ s ∧
     refuse r x s = answerRequest r x [] s)

/-- WRITE_GLOBAL, WRITE_TIMEBASE and WRITE_STREAM replace a whole configuration at once and answer OK; a field out of range is
answered BAD_REQUEST; WRITE_STREAM on a stream that is not STOPPED is answered REFUSED_STATE and a change of link with queued
sets BUSY (R88, R149, R186). No run state changes. The payload bytes are read as the fields of Table 10-3, of the Timebase
configuration and of Table 5-1, in order and each in its range, and no other bytes of their lengths are (R183). The codes of the
center links and the reference inputs are stated too. -/
def Obligations.ConfigurationWritesReplaceTheWhole : Prop :=
  (∀ (gap : Nat) (r : Request) (s : State), s.offers r →
     let u := s.taken gap
     let bad := (.next (finish (refuse r .badRequest u)) : Answered)
     (requestCarries r 3 9 →
       (globalsOf (r.delivered.take 9) = none → exec (.writeGlobal gap r) s = bad) ∧
       (∀ g, globalsOf (r.delivered.take 9) = some g → exec (.writeGlobal gap r) s =
         .next (finish (answerRequest r .ok [] { u with globals := g })))) ∧
     (requestCarries r 21 4 →
       (timebaseConfigOf (r.delivered.take 4) = none → exec (.writeTimebase gap r) s = bad) ∧
       (∀ i v limit, timebaseConfigOf (r.delivered.take 4) = some (i, v, limit) → exec (.writeTimebase gap r) s =
         .next (finish (answerRequest r .ok [] { u with
           timebase := { (s.runClock gap).timebase with preferred := i, revert := v, holdoverLimit := limit } })))) ∧
     (∀ k : StreamNo, requestCarries r 14 19 → r.target = k.val →
       (streamConfigOf (r.delivered.take 19) = none → exec (.writeStream gap r) s = bad) ∧
       (∀ c, streamConfigOf (r.delivered.take 19) = some c →
         ((s.stream k).run.state ≠ .stopped →
           exec (.writeStream gap r) s = .next (finish (refuse r .refusedState u))) ∧
         ((s.stream k).run.state = .stopped → c.link ≠ (s.stream k).config.link → (s.stream k).run.queue ≠ [] →
           exec (.writeStream gap r) s = .next (finish (refuse r .busy u))) ∧
         ((s.stream k).run.state = .stopped → c.link = (s.stream k).config.link ∨ (s.stream k).run.queue = [] →
           exec (.writeStream gap r) s = .next (finish (answerRequest r .ok []
             (u.setStream k ⟨c, (s.stream k).run⟩))))))) ∧
  (∀ (p : List Byte) (g : Globals), p.length = 9 →
     (globalsOf p = some g ↔ g.transportType ≤ 65535 ∧ g.futureTolerance ≤ 1000 ∧ g.noticeDestination ≤ 65535 ∧
       (g.mask0 = true ∨ g.mask1 = true) ∧
       p = be16 g.transportType ++ be16 g.futureTolerance ++ be8 (centerCode g.noticeLink) ++ be16 g.noticeDestination ++
         be8 (centerCode g.throughLink) ++ be8 ((if g.mask0 then 1 else 0) + (if g.mask1 then 2 else 0)))) ∧
  (∀ (p : List Byte) (i : InputId) (v : Bool) (limit : Nat), p.length = 4 →
     (timebaseConfigOf p = some (i, v, limit) ↔
       10 ≤ limit ∧ limit ≤ 3600 ∧ p = be8 (inputCode i) ++ beFlag v ++ be16 limit)) ∧
  (∀ (p : List Byte) (c : StreamConfig), p.length = 19 →
     (streamConfigOf p = some c ↔ c.destination ≤ 65535 ∧ c.priority ≤ 7 ∧ c.planBase ≤ 4095 ∧ 1 ≤ c.planLength ∧
       c.planBase + c.planLength ≤ 4096 ∧ 1 ≤ c.fixedWait ∧ c.fixedWait ≤ 10000 ∧ 1 ≤ c.floorWait ∧
       c.floorWait ≤ 10000 ∧ c.floorWait ≤ c.ceilingWait ∧ c.ceilingWait ≤ 10000 ∧ c.margin ≤ 1000 ∧
       p = be8 c.rate.code ++ be8 (centerCode c.link) ++ be16 c.destination ++ be8 c.priority ++ be16 c.planBase ++
         be16 c.planLength ++ beFlag c.adaptive ++ be16 c.fixedWait ++ be16 c.floorWait ++ be16 c.ceilingWait ++
         be16 c.margin ++ beFlag c.closeOnComplete)) ∧
  centerCode .c0 = 0 ∧ centerCode .c1 = 1 ∧ inputCode .a = 0 ∧ inputCode .b = 1

/-- WRITE_PLAN judges by the first check that fails, in the order of R118, and an accepted one writes its entries in list order
from plan base plus start index onward and nothing else (R118, R119). Each entry of four bytes is read by Table 6-1: a station
number to 1,023, the selector's code, and the index where the selector has one; an entry with selector NONE is the empty entry
(R119, R183). That the index of a selector without one is not looked at is log 17. -/
def Obligations.WritePlanChecksInOrderAndWrites : Prop :=
  (∀ (gap : Nat) (r : Request) (s : State) (k : StreamNo),
     let p := r.delivered.take (3 + 4 * byteAt r.delivered 2)
     let start := numAt16 p 0
     let count := byteAt p 2
     let c := (s.stream k).config
     let u := s.taken gap
     let running := ∃ j, (s.stream j).run.state ≠ .stopped ∧ (s.stream j).config.planBase < c.planBase + start + count ∧
       c.planBase + start < (s.stream j).config.planBase + (s.stream j).config.planLength
     requestCarries r 18 (3 + 4 * byteAt r.delivered 2) → r.target = k.val → s.offers r →
     (count = 0 ∨ 64 < count → exec (.writePlan gap r) s = .next (finish (refuse r .badRequest u))) ∧
     (1 ≤ count → count ≤ 64 →
       (c.planLength < start + count → exec (.writePlan gap r) s = .next (finish (refuse r .outOfBounds u))) ∧
       (start + count ≤ c.planLength →
         (planEntriesOf p 3 count = none → exec (.writePlan gap r) s = .next (finish (refuse r .badRequest u))) ∧
         (∀ l, planEntriesOf p 3 count = some l →
           (running → exec (.writePlan gap r) s = .next (finish (refuse r .refusedRunning u))) ∧
           (¬running → ∃ plan, exec (.writePlan gap r) s = .next (finish (answerRequest r .ok [] { u with plan := plan })) ∧
             ∀ i : Fin 4096, plan[i] = (if c.planBase + start ≤ i.val then l[i.val - (c.planBase + start)]? else none).getD
               s.plan[i]))))) ∧
  (∀ (p : List Byte) (first count : Nat) (l : List PlanEntry),
     planEntriesOf p first count = some l ↔ l.length = count ∧ ∀ j e, l[j]? = some e →
       let code := byteAt p (first + 4 * j + 2)
       let index := byteAt p (first + 4 * j + 3)
       numAt16 p (first + 4 * j) < 1024 ∧
         e.station.val = (if e.selector = .unused then 0 else numAt16 p (first + 4 * j)) ∧
         match e.selector with
         | .phasor i => code = 0 ∧ index = i.val
         | .frequency => code = 1
         | .rocof => code = 2
         | .analog i => code = 3 ∧ index = i.val
         | .status => code = 4
         | .unused => code = 5)

/-! ## Streams -/

/-- START_STREAM (R90): NO_TIME while TIME_KNOWN is cleared; on a STOPPED stream the floor becomes the later of the floor and
local time, the schedule mark the later of itself and that, the state RUNNING with its notice; then, earliest first, the
stream's window opens in every record later than the new floor whose instant is one of its rate, and the stream settles (R91),
so at a Timeline without a record nothing else happens; RUNNING is answered OK and DRAINING BUSY, changing nothing. -/
def Obligations.StartStreamSetsFloorAndMark : Prop :=
  (∀ (gap : Nat) (r : Request) (s : State) (k : StreamNo), requestCarries r 15 0 → r.target = k.val → s.offers r →
     let u := s.taken gap
     let x := (s.stream k).run
     let floor := laterOf x.floor u.localTime
     let started := pushNotice (.streamState k .stopped .running .start)
       (u.setStreamRun k { x with state := .running, floor := floor, mark := laterOf x.mark floor })
     (x.state = .stopped → s.timebase.timeKnown = false →
       exec (.startStream gap r) s = .next (finish (refuse r .noTime u))) ∧
     (x.state = .stopped → s.timebase.timeKnown = true → exec (.startStream gap r) s = .next (finish (answerRequest r .ok []
       (((s.timeline.map (·.instant)).filter (fun t => isInstant (s.stream k).config.rate t && earlier floor t)).foldl
         (fun v t => openIn k t v) started)))) ∧
     (x.state = .stopped → s.timebase.timeKnown = true → s.timeline = [] →
       exec (.startStream gap r) s = .next (finish (answerRequest r .ok [] started))) ∧
     (x.state = .running → exec (.startStream gap r) s = .next (finish (answerRequest r .ok [] u))) ∧
     (x.state = .draining → exec (.startStream gap r) s = .next (finish (refuse r .busy u)))) ∧
  (∀ (k : StreamNo) (t : GridTime) (s : State),
     (recordAt s t = none → openIn k t s = s) ∧
     (∀ q, recordAt s t = some q → openIn k t s = settle k { s with timeline := s.timeline.map (fun r =>
       if r.instant = t then { r with windows := r.windows.set k (openedWindow s k q) } else r) }))

/-- STOP_STREAM with mode DRAIN (R92): a RUNNING stream with a waiting window becomes DRAINING, without one STOPPED with cause
DRAINED; the answer is OK at once without the WAIT flag. With it, the request needs a free slot, and the slot becomes the
stream's pending stop while the drain runs, or the answer carries the detail DRAINED (R95, R188). -/
def Obligations.StopStreamDrainWaitsForItsWindows : Prop :=
  ∀ (gap : Nat) (r : Request) (s : State) (k : StreamNo),
    requestCarries r 16 1 → stopMode r = some 0 → r.target = k.val → s.offers r → (s.stream k).run.state = .running →
    let u := s.taken gap
    let x := (s.stream k).run
    let draining := pushNotice (.streamState k .running .draining .drain) (u.setStreamRun k { x with state := .draining })
    (r.wait = 0 → hasWaiting s k = true →
      exec (.stopStreamDrain gap r) s = .next (finish (answerRequest r .ok [] draining))) ∧
    (r.wait = 0 → hasWaiting s k = false → x.pendingStop = none →
      exec (.stopStreamDrain gap r) s = .next (finish (answerRequest r .ok []
        (pushNotice (.streamState k .running .stopped .drained) (u.setStreamRun k { x with state := .stopped }))))) ∧
    (r.wait = 1 → freeSlot s = none → exec (.stopStreamDrain gap r) s = .next (finish (refuse r .busy u))) ∧
    (∀ d, r.wait = 1 → freeSlot s = some d → hasWaiting s k = true →
      exec (.stopStreamDrain gap r) s = .next (finish ((draining.setSlot d (some
        ⟨r.tag, r.kind, r.target, r.link, r.source, .stream k, 10000000000 + (s.elapsed + gap)⟩)).setStreamRun k
          { x with state := .draining, pendingStop := some d }))) ∧
    (∀ d, r.wait = 1 → freeSlot s = some d → hasWaiting s k = false → x.pendingStop = none →
      exec (.stopStreamDrain gap r) s = .next (finish (answerRequest r .ok [0x00]
        (pushNotice (.streamState k .running .stopped .drained) (u.setStreamRun k { x with state := .stopped })))))

/-- STOP_STREAM on a STOPPED stream is answered OK and changes nothing, DRAIN on a DRAINING stream BUSY, and another mode
BAD_REQUEST (R94); WAIT without a free slot is BUSY, and with one the answer carries the detail DRAINED (R95, R188). The mode is
the payload's byte. -/
def Obligations.StopStreamWithNothingToStop : Prop :=
  (∀ r : Request, stopMode r = r.delivered.head?.map BitVec.toNat) ∧
  ∀ (gap : Nat) (r : Request) (s : State) (k : StreamNo), requestCarries r 16 1 → r.target = k.val → s.offers r →
    let u := s.taken gap
    let answer := fun (p : List Byte) => (.next (finish (answerRequest r .ok p u)) : Answered)
    let busy := (.next (finish (refuse r .busy u)) : Answered)
    ((s.stream k).run.state = .stopped →
      (r.wait = 0 → (stopMode r = some 0 → exec (.stopStreamDrain gap r) s = answer []) ∧
        (stopMode r = some 1 → exec (.stopStreamCut gap r) s = answer [])) ∧
      (r.wait = 1 → freeSlot s ≠ none → (stopMode r = some 0 → exec (.stopStreamDrain gap r) s = answer [0x00]) ∧
        (stopMode r = some 1 → exec (.stopStreamCut gap r) s = answer [0x00])) ∧
      (r.wait = 1 → freeSlot s = none → (stopMode r = some 0 → exec (.stopStreamDrain gap r) s = busy) ∧
        (stopMode r = some 1 → exec (.stopStreamCut gap r) s = busy))) ∧
    ((s.stream k).run.state = .draining → stopMode r = some 0 → exec (.stopStreamDrain gap r) s = busy) ∧
    (stopMode r ≠ some 0 → stopMode r ≠ some 1 →
      exec (.stopStreamBadMode gap r) s = .next (finish (refuse r .badRequest u)))

/-- STOP_STREAM with mode CUT on a RUNNING or DRAINING stream (R93, R95): every waiting window closes with cause CUT, the stream
stops with cause CUT, a pending stop completes OK with detail CUT before the request's own answer (R189). FLUSH (R110) closes
every waiting window of every stream that is not STOPPED with cause FLUSHED and stops the DRAINING ones. Such a direct close
(R109) closes the stream's OPEN and READY windows one after another, in instant order, each with the cause, as
`CloseBuildsMovesFloorAndCountsMissing` states, and leaves the stream none that waits; where every record has a waiting window
and no STOPPED stream has one, FLUSH leaves the Timeline empty and every report slot free. That these closes take no drain of
their own is log 12; that FLUSH goes through the streams from S0 to S7 is log 13. -/
def Obligations.CutAndFlushCloseEveryWaitingWindow : Prop :=
  (∀ (k : StreamNo) (cause : CloseCause) (s : State),
     (hasWaiting s k = true ↔ ∃ q ∈ s.timeline, q.windows[k].state = .opened ∨ ∃ why, q.windows[k].state = .ready why) ∧
     (StoreOk s → hasWaiting (closeAll k cause s) k = false ∧
       closeAll k cause s = ((s.timeline.filter (fun q => q.windows[k].waiting)).map (·.instant)).foldl
         (fun t i => closeWindow k i cause t) s)) ∧
  (∀ (gap : Nat) (r : Request) (s : State), s.offers r →
     let u := s.taken gap
     (∀ k : StreamNo, requestCarries r 16 1 → stopMode r = some 1 → r.target = k.val → (s.stream k).run.state ≠ .stopped →
       r.wait = 0 ∨ freeSlot s ≠ none →
       exec (.stopStreamCut gap r) s = .next (finish (answerRequest r .ok (if r.wait = 1 then [0x01] else [])
         (stopStream k .cut (closeAll k .cut u))))) ∧
     (∀ k : StreamNo, requestCarries r 16 1 → stopMode r = some 1 → r.target = k.val → (s.stream k).run.state ≠ .stopped →
       r.wait = 1 → freeSlot s = none → exec (.stopStreamCut gap r) s = .next (finish (refuse r .busy u))) ∧
     (requestCarries r 24 0 → ∃ t, exec (.flush gap r) s = .next (finish (answerRequest r .ok [] t)) ∧
       t = allStreams.foldl (fun t k =>
         match (t.stream k).run.state with
         | .stopped => t
         | .running => closeAll k .flushed t
         | .draining => stopStream k .flushed (closeAll k .flushed t)) u ∧
       (StoreOk s → (∀ q ∈ s.timeline, q.waiting = true) →
         (∀ k, (s.stream k).run.state = .stopped → hasWaiting s k = false) → t.timeline = [] ∧ t.freeSlots = 16384)))

/-- Entry to STOPPED (R89, R95, R189): the notice with its cause; a pending stop is answered OK with the cause as its detail, its
slot is freed and it becomes absent. A time step (R111): a STOPPED stream is not reached; a RUNNING one closes its waiting
windows, its floor becomes the later of the floor and the new local time and the mark follows, discontinuity pending becomes
yes; a DRAINING one then stops with cause STEPPED. That the step's closes take no drain of their own, so that the cause of the
stop is STEPPED, is log 12; that a discontinuity pending from an earlier step marks the first set these closes build is log 30. -/
def Obligations.StoppedEntryAndTimeStepsOnStreams : Prop :=
  (∀ (k : StreamNo) (cause : StreamCause) (s : State),
     let x := (s.stream k).run
     let stopped := pushNotice (.streamState k x.state .stopped cause)
       (s.setStreamRun k { x with state := .stopped, pendingStop := none })
     (x.pendingStop = none → stopStream k cause s = stopped) ∧
     (∀ d h, x.pendingStop = some d → s.slot d = some h → h.op = .stream k →
       stopStream k cause s = (placeAnswer h.link ⟨h.source, h.tag, h.kind, h.target, .ok,
         be8 (match cause with | .cut => 1 | .flushed => 2 | .stepped => 3 | .drained => 0 | .start => 0 | .drain => 0)⟩
         stopped).setSlot d none)) ∧
  (∀ (t : GridTime) (k : StreamNo) (s : State),
     let v := closeAll k .stepped s
     let x := (v.stream k).run
     let floor := laterOf x.floor t
     let w := v.setStreamRun k { x with floor := floor, mark := laterOf x.mark floor, discontinuity := true }
     ((s.stream k).run.state = .stopped → stepStream t s k = s) ∧
     ((s.stream k).run.state = .running → stepStream t s k = w) ∧
     ((s.stream k).run.state = .draining → stepStream t s k = stopStream k .stepped w))

/-- A schedule point (R73, R97): local time runs to the next instant after the schedule mark; with a record present nothing but
the mark changes; with none and room, the record is created with cause SCHEDULE. At a full Timeline (R76) with an instant
earlier than the oldest record, the stream skips it: its floor becomes the instant and the store-discard count rises; with a
later instant the oldest record is force-closed, and the record is created where some stream still wants the instant. A forced
close (R78, R81) closes the waiting windows of the record stream by stream with cause FORCED, each followed by the stream's
forced-close count, the end of its drain and its cascade; the record leaves the Timeline and the Timeline's count rises once. That
S0 goes first is log 13. -/
def Obligations.SchedulePointReachesTheNextInstant : Prop :=
  (∀ (s : State) (k : StreamNo) (t : GridTime), (s.stream k).run.state = .running →
     nextInstant (s.stream k).config.rate (s.stream k).run.mark = some t →
     let u := s.runClock (gridNs t - gridNs s.localTime)
     let x := (s.stream k).run
     let reached := fun v : State => (.next (finish (v.setStreamRun k { (v.stream k).run with
       mark := laterOf t (v.stream k).run.floor })) : Answered)
     let created := fun v : State => settleAll { v with timeline := insertRecord (newRecord v t .schedule) v.timeline }
     exec (.schedulePoint k) s = .next (finish (reachSchedule k t u)) ∧
     (∀ rec, recordAt s t = some rec → exec (.schedulePoint k) s =
       .next (finish (u.setStreamRun k { x with mark := laterOf t x.floor }))) ∧
     (recordAt s t = none → s.timeline.length < 512 → exec (.schedulePoint k) s = reached (created u)) ∧
     (recordAt s t = none → 512 ≤ s.timeline.length → ∀ o rest, s.timeline = o :: rest →
       (earlier t o.instant = true →
         exec (.schedulePoint k) s = .next (finish { u.setStreamRun k { x with floor := t, mark := t } with
           storeDiscards := satInc s.storeDiscards })) ∧
       (earlier o.instant t = true →
         let v := forceClose o.instant u
         (anyWants v t = true → exec (.schedulePoint k) s = reached (created v)) ∧
         (anyWants v t = false → exec (.schedulePoint k) s = reached v)))) ∧
  (∀ (t : GridTime) (s : State),
     let v := allStreams.foldl (fun v k =>
       if ∃ q, recordAt v t = some q ∧ q.windows[k].waiting = true then
         let w := closeWindow k t .forced v
         settle k (drainIfDone k (w.setStreamRun k { (w.stream k).run with forced := satInc (w.stream k).run.forced }))
       else v) s
     forceClose t s = { retireIfDone t v with forcedCloses := satInc v.forcedCloses } ∧ recordAt (forceClose t s) t = none)

/-- A deadline expires (R104): local time runs to it; an OPEN window becomes READY with cause DEADLINE and its stream settles; a
READY or CLOSED window is unchanged. A stream settles (R106, R108): while its earliest OPEN or READY window is READY, that window
closes with the cause that made it READY, a drain that this ends stops the stream, and the search repeats; an earliest window
that is OPEN, or none that waits, ends the cascade. Where several streams settle, that S0 goes first is log 13. -/
def Obligations.DeadlineExpiryMakesTheWindowReady : Prop :=
  (∀ (s : State) (k : StreamNo) (r : Record) (d : GridTime), recordAt s r.instant = some r →
     r.windows[k].deadline = some d →
     let u := s.runClock (gridNs d - gridNs s.localTime)
     exec (.deadlineExpiry r.instant k) s = .next (finish (expireDeadline r.instant k u)) ∧
     (r.windows[k].state = .opened → exec (.deadlineExpiry r.instant k) s = .next (finish (settle k
       { u with timeline := s.timeline.map (fun q => if q.instant = r.instant
           then { q with windows := q.windows.set k { r.windows[k] with state := .ready .deadline } } else q) }))) ∧
     (r.windows[k].state ≠ .opened → exec (.deadlineExpiry r.instant k) s = .next (finish u))) ∧
  (∀ (k : StreamNo) (s : State), StoreOk s →
     let first := s.timeline.find? (fun q => q.windows[k].waiting)
     (first = none → settle k s = s) ∧
     (∀ q, first = some q →
       (q.windows[k].state = .opened → settle k s = s) ∧
       (q.windows[k].state = .ready .complete → settle k s = settle k (drainIfDone k (closeWindow k q.instant .complete s))) ∧
       (q.windows[k].state = .ready .deadline →
         settle k s = settle k (drainIfDone k (closeWindow k q.instant .deadline s))))) ∧
  (∀ s : State, settleAll s =
     settle 7 (settle 6 (settle 5 (settle 4 (settle 3 (settle 2 (settle 1 (settle 0 s))))))))

/-- Opening a window (R100-R103): the awaited set holds exactly the stations that are ADMITTED, planned with a selector other
than NONE, due, and without an entry; the deadline is the instant plus the wait; the window is READY at once when the set is
empty and the stream closes on complete, else when the deadline is at or before local time, else OPEN. -/
def Obligations.OpeningFixesAwaitedSetDeadlineAndState : Prop :=
  ∀ (s : State) (k : StreamNo) (r : Record),
    let c := (s.stream k).config
    let w := openedWindow s k r
    (∀ n, n ∈ w.awaited ↔ (s.station n).run.state = .admitted ∧
      (∃ e ∈ (s.plan.toList.drop c.planBase).take c.planLength, e.station = n ∧ e.selector ≠ .unused) ∧
      isDue (s.station n).config.rate c.rate r.instant = true ∧ arrivalOf r.arrivals n = none) ∧
    w.awaited.Pairwise (· < ·) ∧
    w.deadline = some (addNs r.instant (1000000 * waitMs s c w.awaited)) ∧ w.late = 0 ∧
    (w.awaited = [] → c.closeOnComplete = true → w.state = .ready .complete) ∧
    (¬(w.awaited = [] ∧ c.closeOnComplete = true) → ∀ d, w.deadline = some d →
      w.state = if earlier s.localTime d then .opened else .ready .deadline)

/-- The wait (R101, R102): the fixed wait under FIXED; under ADAPTIVE the floor wait for an empty awaited set, and else the
largest latency estimate of the awaited stations plus the margin, rounded up to milliseconds and clamped. -/
def Obligations.WaitIsFixedOrClampedEstimate : Prop :=
  ∀ (s : State) (c : StreamConfig) (awaited : List StationNo) (largest : Nat),
    (c.adaptive = false → waitMs s c awaited = c.fixedWait) ∧
    (c.adaptive = true → awaited = [] → waitMs s c awaited = c.floorWait) ∧
    (c.adaptive = true → c.floorWait ≤ c.ceilingWait →
      (∀ n ∈ awaited, max (s.station n).run.curMax (s.station n).run.prevMax ≤ largest) →
      (∃ n ∈ awaited, max (s.station n).run.curMax (s.station n).run.prevMax = largest) →
      waitMs s c awaited = max c.floorWait (min c.ceilingWait ((999 + (1000 * c.margin + largest)) / 1000)))

/-- A window's close (R107 steps 1 to 4 and 6): the window takes its cause; the set is built from the stream's plan segment and
the record's arrivals, with the sequence, the flags and the cells of R121-R127, and joins the tail of the Set Queue, which first
makes room; the sequence is consumed, the discontinuity mark spent, sets built rises; the floor becomes the instant and the mark
follows it; each station still awaited counts a missing report; and nothing else changes before the record retires. A record
without an OPEN or READY window retires and its slots are free (R75); a DRAINING stream without a waiting window stops with
cause DRAINED (R92, R107 step 7). That the DISCONTINUITY flag follows R126 at a time step's own closes too, where R111 reads
otherwise for one pending from an earlier step, is the model's choice, log 30. -/
def Obligations.CloseBuildsMovesFloorAndCountsMissing : Prop :=
  (∀ (k : StreamNo) (cause : CloseCause) (s : State) (r : Record), recordAt s r.instant = some r →
     let c := (s.stream k).config
     let w := r.windows[k]
     let cells := ((s.plan.toList.drop c.planBase).take c.planLength).map (cellOf s c.rate r.instant r.arrivals)
     let set : AlignedSet :=
       { sequence := (s.stream k).run.nextSeq, instant := r.instant, cause := cause
         flags :=
           { complete := decide (w.awaited = []), timeHoldover := decide (s.timebase.mode = .holdover)
             timeFree := decide (s.timebase.mode = .free), discontinuity := (s.stream k).run.discontinuity
             suspectPresent := decide (∃ x ∈ cells, x.state = .suspect) }
         cells := cells }
     let closed : State := { s with timeline := s.timeline.map (fun q => if q.instant = r.instant
       then { q with windows := q.windows.set k { w with state := .closed cause } } else q) }
     let room := makeRoom k closed
     let x := (room.stream k).run
     closeWindow k r.instant cause s = retireIfDone r.instant (w.awaited.foldl (fun t n => countStation n .missing t)
       (room.setStreamRun k { x with
         queue := x.queue ++ [set], nextSeq := ((s.stream k).run.nextSeq + 1) % 4294967296, discontinuity := false
         built := satInc (s.stream k).run.built, floor := r.instant
         mark := laterOf (s.stream k).run.mark r.instant }))) ∧
  (∀ (t : GridTime) (s : State),
     (recordAt s t = none → retireIfDone t s = s) ∧
     (∀ q, recordAt s t = some q →
       ((∃ k : StreamNo, q.windows[k].waiting = true) → retireIfDone t s = s) ∧
       ((∀ k : StreamNo, q.windows[k].waiting = false) → retireIfDone t s = { s with
         timeline := s.timeline.filter (fun p => p.instant ≠ t), freeSlots := s.freeSlots + q.arrivals.length }))) ∧
  (∀ (k : StreamNo) (s : State),
     ((s.stream k).run.state = .draining → hasWaiting s k = false → drainIfDone k s = stopStream k .drained s) ∧
     ((s.stream k).run.state ≠ .draining ∨ hasWaiting s k = true → drainIfDone k s = s))

/-- The cell of a plan entry by the first case that applies (R122), and its value (R123), which a report carries where it has
the selected phasor or analog, and always for the fixed-part values. -/
def Obligations.CellsFollowTheFirstCaseThatApplies : Prop :=
  ∀ (s : State) (rate : RateCode) (t : GridTime) (m : List (StationNo × Report)) (e : PlanEntry),
    let cell := cellOf s rate t m e
    let state := (s.station e.station).run.state
    let carried := fun (p : Report) => match e.selector with
      | .phasor i => p.phasors[i.val]?
      | .frequency => some (p.frequency, 0)
      | .rocof => some (p.rocof, 0)
      | .analog i => p.analogs[i.val]?.map (fun v => (v, 0))
      | .status => some (p.status.setWidth 32, 0)
      | .unused => none
    (e.selector = .unused → cell = ⟨.absentStation, 0, 0⟩) ∧
    (e.selector ≠ .unused →
      (∀ p, arrivalOf m e.station = some p →
        (carried p = none → cell = ⟨.short, 0, 0⟩) ∧
        (∀ v, carried p = some v → cell = ⟨if p.suspect then .suspect else .present, v.1, v.2⟩)) ∧
      (arrivalOf m e.station = none →
        (state ≠ .admitted → state ≠ .silent → cell = ⟨.absentStation, 0, 0⟩) ∧
        (state = .admitted ∨ state = .silent →
          cell = ⟨if isDue (s.station e.station).config.rate rate t then .missing else .notDue, 0, 0⟩)))

/-- Room in a full Set Queue (R129): the oldest set that is not in transmission is discarded, counted and announced with cause
OVERRUN; the queue then has room for the new set. -/
def Obligations.OverrunDiscardsTheOldestNotInTransmission : Prop :=
  ∀ (k : StreamNo) (s : State),
    let x := (s.stream k).run
    let discard := fun (a : AlignedSet) rest => pushNotice (.setDiscarded k .overrun a.sequence)
      (s.setStreamRun k { x with queue := rest, discarded := satInc x.discarded })
    (x.queue.length < 16 → makeRoom k s = s) ∧
    (∀ a b rest, x.queue = a :: b :: rest → x.queue.length = 16 →
      (txStream (s.center .c0).tx ≠ some k → txStream (s.center .c1).tx ≠ some k →
        makeRoom k s = discard a (b :: rest)) ∧
      (txStream (s.center .c0).tx = some k ∨ txStream (s.center .c1).tx = some k →
        makeRoom k s = discard b (a :: rest)))

/-! ## The Timebase -/

/-- A marker outside its window is a glitch and changes only the glitch count (R133); a marker on an ABSENT input with a LOCKED
message starts qualification, and any other only discards the latest message (R134). -/
def Obligations.GlitchesAndFirstMarkers : Prop :=
  ∀ (gap : Nat) (i : InputId) (s : State),
    let u := s.runClock gap
    let x := inputOf s i
    (∀ m, x.qual ≠ .absent → x.lastMarker = some m →
      (2000 + (s.elapsed + gap) < 1000000000 * (x.missed + 1) + m ∨
        2000 + (1000000000 * (x.missed + 1) + m) < s.elapsed + gap) →
      exec (.marker gap i) s = .next (finish (setInput i { x with glitches := satInc x.glitches } u))) ∧
    (x.qual = .absent →
      (∀ m, x.message = some m → m.locked = true → exec (.marker gap i) s = .next (finish
        (pushNotice (.inputState i .absent .qualifying .firstMarker) (setInput i { x with
          qual := .qualifying, goodSeconds := 1, lastMarker := some (s.elapsed + gap), lastSecond := some m.second
          message := none } u)))) ∧
      ((∀ m, x.message = some m → m.locked = false) →
        exec (.marker gap i) s = .next (finish (setInput i { x with message := none } u))))

/-- A marker inside the window of an input that is QUALIFYING or QUALIFIED is accepted (R133) and is a good or a bad second (R135).
At a good second the input counts it, and is QUALIFIED at the eighth. Then (R138-R140, R142): a good second of the locked input
sets local time to its second; one of the QUALIFIED preferred input, with revert set and another input locked, locks the Timebase
to it with cause REVERT and sets local time; one that qualifies the input in FREE or HOLDOVER locks it with cause QUALIFIED and
sets local time; any other leaves the Timebase as it is. A bad second takes a QUALIFIED input to QUALIFYING, and the Timebase
then leaves LOCKED on it (R141). `setLocalTime` and `inputLost` are stated in `QualificationLocksAndStepsTheTime` and
`WindowEndsAndTheLossOfTheLockedInput`. -/
def Obligations.AcceptedMarkersCountGoodSeconds : Prop :=
  ∀ (gap : Nat) (i : InputId) (s : State) (m : Nat),
    let u := s.runClock gap
    let x := inputOf s i
    let now := s.elapsed + gap
    let mode := s.timebase.mode
    let good := fun l => x.lastSecond = some l ∧ l < 4294967295 ∧ x.message = some ⟨l + 1, true⟩
    let qualifies := x.qual = .qualifying ∧ 7 ≤ x.goodSeconds
    let reverts := i = s.timebase.preferred ∧ s.timebase.revert = true ∧ (x.qual = .qualified ∨ 7 ≤ x.goodSeconds)
    let counted := fun l => if qualifies
      then pushNotice (.inputState i .qualifying .qualified .qualified) (setInput i { x with
        qual := .qualified, goodSeconds := 8, lastSecond := some (l + 1), lastMarker := some now, missed := 0
        message := none } u)
      else setInput i { x with
        goodSeconds := min 8 (x.goodSeconds + 1), lastSecond := some (l + 1), lastMarker := some now, missed := 0
        message := none } u
    let locked := fun (cause : TimebaseCause) (v : State) => pushNotice (.timebaseState mode (.locked i) cause) { v with
      timebase := { v.timebase with mode := .locked i, firstPending := true, timeKnown := true, holdoverTimer := none } }
    let bad := setInput i { x with
      qual := .qualifying, goodSeconds := 0, lastSecond := x.message.map (·.second), lastMarker := some now, missed := 0
      message := none } u
    let disqualified := pushNotice (.inputState i .qualified .qualifying .badSecond) bad
    x.qual ≠ .absent → x.lastMarker = some m → 1000000000 * (x.missed + 1) + m ≤ 2000 + now →
    now ≤ 2000 + (1000000000 * (x.missed + 1) + m) →
    (∀ l, good l →
      (mode = .locked i → exec (.marker gap i) s = .next (finish (setLocalTime (l + 1) (counted l)))) ∧
      (∀ j, mode = .locked j → j ≠ i → reverts → exec (.marker gap i) s =
        .next (finish (setLocalTime (l + 1) (locked .revert (counted l))))) ∧
      (∀ j, mode = .locked j → j ≠ i → ¬reverts → exec (.marker gap i) s = .next (finish (counted l))) ∧
      (mode = .free ∨ mode = .holdover →
        (qualifies → exec (.marker gap i) s = .next (finish (setLocalTime (l + 1) (locked .qualified (counted l))))) ∧
        (¬qualifies → exec (.marker gap i) s = .next (finish (counted l))))) ∧
    ((∀ l, ¬good l) →
      (x.qual = .qualifying → exec (.marker gap i) s = .next (finish bad)) ∧
      (x.qual = .qualified → mode ≠ .locked i → exec (.marker gap i) s = .next (finish disqualified)) ∧
      (x.qual = .qualified → mode = .locked i → exec (.marker gap i) s = .next (finish (inputLost i disqualified))))

/-- The eighth good second in FREE or HOLDOVER locks the Timebase to the input, TIME_KNOWN is set, the holdover timer stops, and
the first setting is made at the marker: with no stream running and a difference of more than 1 ms, a time step clears the
latency maxima and its notice carries the difference in ms (R138-R140, R143-R145). A setting of local time (R139, R144): a first
one that moves it by more than 1 ms is a time step, which pushes its notice, reaches each stream as
`StoppedEntryAndTimeStepsOnStreams` states and clears both latency maxima of every station (R145); any other that moves it
forward reaches the deadlines and schedule points up to the new value (R11); any other does nothing more. That a step takes the
streams from S0 to S7 is log 13, and that what a forward setting reaches comes earliest first is log 14. Between settings the
oscillator runs local time on (R3): after ns of elapsed time (R10) local time is ns later, and never beyond the largest grid
time (R2); that the clock runs by the gap of a command is log 1. -/
def Obligations.QualificationLocksAndStepsTheTime : Prop :=
  (∀ (gap : Nat) (i : InputId) (s : State) (m l : Nat),
     let u := s.runClock gap
     let x := inputOf s i
     let now := s.elapsed + gap
     let d := diffNs ⟨l + 1, 0⟩ u.localTime
     x.qual = .qualifying → x.goodSeconds = 7 → x.lastMarker = some m → 1000000000 * (x.missed + 1) + m ≤ 2000 + now →
     now ≤ 2000 + (1000000000 * (x.missed + 1) + m) → x.lastSecond = some l → l < 4294967295 →
     x.message = some ⟨l + 1, true⟩ → (s.timebase.mode = .free ∨ s.timebase.mode = .holdover) →
     (∀ k, (s.stream k).run.state = .stopped) → 1000000 < d.natAbs → s.notices.queue.length < 254 →
     ∃ t, exec (.marker gap i) s = .next (finish t) ∧
       inputOf t i = { x with qual := .qualified, goodSeconds := 8, lastSecond := some (l + 1), lastMarker := some now
                              missed := 0, message := none } ∧
       t.timebase.mode = .locked i ∧ t.timebase.timeKnown = true ∧ t.timebase.holdoverTimer = none ∧
       t.timebase.firstPending = false ∧ t.localTime = ⟨l + 1, 0⟩ ∧ t.elapsed = now ∧
       t.notices.queue.map (·.body) = s.notices.queue.map (·.body) ++
         [.inputState i .qualifying .qualified .qualified, .timebaseState s.timebase.mode (.locked i) .qualified,
           .timeStep (max (-2147483647) (min 2147483647 (d.tdiv 1000000)))] ∧
       (∀ n, t.station n = { s.station n with run := { (s.station n).run with curMax := 0, prevMax := 0 } }) ∧
       (∀ k, t.stream k = s.stream k) ∧ t.timeline = s.timeline) ∧
  (∀ (second : Nat) (s : State),
     let d := diffNs ⟨second, 0⟩ s.localTime
     let w : State := { s with timebase := { s.timebase with localTime := ⟨second, 0⟩, firstPending := false } }
     (s.timebase.firstPending = true → 1000000 < d.natAbs → setLocalTime second s = timeStep d w) ∧
     (s.timebase.firstPending = false ∨ d.natAbs ≤ 1000000 →
       (earlier s.localTime ⟨second, 0⟩ = true → setLocalTime second s = reachAll w) ∧
       (earlier s.localTime ⟨second, 0⟩ = false → setLocalTime second s = w))) ∧
  (∀ (d : Int) (s : State),
     let stepped := stepStream s.localTime
     let v := stepped (stepped (stepped (stepped (stepped (stepped (stepped (stepped
       (pushNotice (.timeStep (max (-2147483647) (min 2147483647 (d.tdiv 1000000)))) s) 0) 1) 2) 3) 4) 5) 6) 7
     ∃ t, timeStep d s = t ∧ t = { v with stations := t.stations } ∧
       ∀ n, t.station n = { v.station n with run := { (v.station n).run with curMax := 0, prevMax := 0 } }) ∧
  (∀ s : State, StoreOk s → TakesDue s (reachAll s)) ∧
  (∀ (ns : Nat) (s : State),
     s.runClock ns = { s with
       elapsed := s.elapsed + ns, timebase := { s.timebase with localTime := addNs s.localTime ns } } ∧
     (gridValid s.localTime = true → gridValid (addNs s.localTime ns) = true ∧
       gridNs (addNs s.localTime ns) = min (gridNs s.localTime + ns) (gridNs ⟨4294967295, 999999999⟩))) ∧
  (∀ a b : GridTime, gridNs a = 1000000000 * a.sec + a.ns ∧ diffNs a b = (gridNs a : Int) - gridNs b)

/-- Bytes of a message line (R132, R180). A byte 0xA5 after at least 10 idle byte times, and its own byte time, is a start byte: a
message begins, and one that was being assembled is cut short and counted. Any other byte joins the message being assembled, and
is ignored where there is none. The eighth byte ends the assembly: a message whose length is 5, whose quality is 0 or 1, whose
bytes 1 to 7 sum to 0 modulo 256 and of which no byte had a framing fault becomes the latest message; any other raises the
message-error count. MESSAGE_CUT_SHORT delivers one byte 0xA5. That a TIME_MESSAGE delivers one byte or more, each after its own
gap, and that a line on which no byte has come is idle from oscillator time 0, is log 19. -/
def Obligations.TimeMessagesReplaceOrCount : Prop :=
  (∀ (gap : Nat) (i : InputId) (value : Byte) (fault : Bool) (s : State),
     let x := inputOf s i
     let now := s.elapsed + gap
     let start := value = 0xA5 ∧ 110000000000 ≤ 115200 * (now - s.quiet i)
     let ends := fun (y : RefInput) => exec (.timeMessage gap i ⟨value, fault, []⟩) s =
       .next (finish ((setInput i y (s.runClock gap)).setQuiet i now))
     (start → x.assembly = none → ends { x with assembly := some ⟨[0xA5], fault⟩ }) ∧
     (start → x.assembly ≠ none →
       ends { x with assembly := some ⟨[0xA5], fault⟩, messageErrors := satInc x.messageErrors }) ∧
     (¬start → x.assembly = none → ends x) ∧
     (∀ l f, ¬start → x.assembly = some ⟨l, f⟩ → l.length < 7 →
       ends { x with assembly := some ⟨l ++ [value], f || fault⟩ }) ∧
     (∀ b0 b1 b2 b3 b4 b5 b6 f, ¬start → x.assembly = some ⟨[b0, b1, b2, b3, b4, b5, b6], f⟩ →
       let valid := b1 = 5 ∧ (b6 = 0 ∨ b6 = 1) ∧ f = false ∧ fault = false ∧
         (b1.toNat + b2.toNat + b3.toNat + b4.toNat + b5.toNat + b6.toNat + value.toNat) % 256 = 0
       let second := 16777216 * b2.toNat + 65536 * b3.toNat + 256 * b4.toNat + b5.toNat
       (valid → ends { x with message := some ⟨second, decide (b6 = 0)⟩, assembly := none }) ∧
       (¬valid → ends { x with messageErrors := satInc x.messageErrors, assembly := none }))) ∧
  (∀ (gap : Nat) (i : InputId) (value : Byte) (fault : Bool) (rest : List LineByte) (s : State),
     exec (.timeMessage gap i ⟨value, fault, rest⟩) s =
       .next (finish (rest.foldl (fun t b => receiveByte i b.value b.fault (t.runClock b.gap))
         (receiveByte i value fault (s.runClock gap)))) ∧
     exec (.messageCutShort gap i) s = .next (finish (receiveByte i 0xA5 false (s.runClock gap))))

/-- A window end (R136), one nanosecond after the window's last instant (log 27): a first or second missed window counts, raises
the last announced second and discards the latest message; a third makes the input ABSENT, which on an input that is not the
locked one pushes only the INPUT_STATE notice, while a QUALIFIED one then leaves QUALIFIED for the Timebase. The locked input
leaves QUALIFIED (R141): with the other input QUALIFIED the
Timebase locks to it with cause SWITCHOVER and a first setting pending; otherwise it enters HOLDOVER with cause LOST and the
holdover timer starts. Local time is unchanged. -/
def Obligations.WindowEndsAndTheLossOfTheLockedInput : Prop :=
  (∀ (i : InputId) (s : State) (m : Nat),
     let x := inputOf s i
     let u := s.runClock (2001 + (1000000000 * (x.missed + 1) + m) - s.elapsed)
     x.qual ≠ .absent → x.lastMarker = some m →
     (x.missed < 2 → exec (.windowEnd i) s = .next (finish (setInput i { x with
       missed := x.missed + 1, message := none
       lastSecond := x.lastSecond.map (fun l => if l < 4294967295 then l + 1 else l) } u))) ∧
     (x.missed = 2 → s.timebase.mode ≠ .locked i → exec (.windowEnd i) s = .next (finish
       (pushNotice (.inputState i x.qual .absent .loss) (setInput i { x with
         qual := .absent, goodSeconds := 0, lastMarker := none, lastSecond := none, missed := 0, message := none } u)))) ∧
     (x.missed = 2 → x.qual = .qualified → exec (.windowEnd i) s = .next (finish
       (inputLost i (pushNotice (.inputState i .qualified .absent .loss) (setInput i { x with
         qual := .absent, goodSeconds := 0, lastMarker := none, lastSecond := none, missed := 0, message := none } u)))))) ∧
  (∀ (i : InputId) (s : State), s.timebase.mode = .locked i →
     ((inputOf s (match i with | .a => .b | .b => .a)).qual = .qualified →
       inputLost i s = pushNotice (.timebaseState (.locked i) (.locked (match i with | .a => .b | .b => .a)) .switchover)
         { s with timebase := { s.timebase with
           mode := .locked (match i with | .a => .b | .b => .a), firstPending := true, timeKnown := true
           holdoverTimer := none } }) ∧
     ((inputOf s (match i with | .a => .b | .b => .a)).qual ≠ .qualified →
       inputLost i s = pushNotice (.timebaseState (.locked i) .holdover .lost)
         { s with timebase := { s.timebase with
           mode := .holdover, firstPending := false
           holdoverTimer := some (1000000000 * s.timebase.holdoverLimit + s.elapsed) } }))

/-- The holdover timer expires (R143): the Timebase moves to FREE with cause HOLDOVER_EXPIRED. A completion limit expires (R190):
the slot's answer TIMED_OUT, with an empty payload, goes to its link, the slot is free, and the stream's pending stop or the
station's deferral goes; the operation is untouched. -/
def Obligations.HoldoverAndCompletionLimitExpiries : Prop :=
  ∀ s : State,
    (∀ e, s.timebase.holdoverTimer = some e → s.timebase.mode = .holdover →
      exec .holdoverTimerExpiry s = .next (finish (pushNotice (.timebaseState .holdover .free .holdoverExpired)
        { s.runClock (e - s.elapsed) with
          timebase := { (s.runClock (e - s.elapsed)).timebase with mode := .free, holdoverTimer := none } }))) ∧
    (∀ d h, s.slot d = some h →
      let v := (placeAnswer h.link ⟨h.source, h.tag, h.kind, h.target, .timedOut, []⟩
        (s.runClock (h.limit - s.elapsed))).setSlot d none
      (∀ k, h.op = .stream k → exec (.completionLimitExpiry d) s =
        .next (finish (v.setStreamRun k { (s.stream k).run with pendingStop := none }))) ∧
      (∀ n, h.op = .station n → exec (.completionLimitExpiry d) s =
        .next (finish (v.setRun n { (s.station n).run with
          deferrals := (s.station n).run.deferrals.filter (· ≠ d) }))))

/-! ## Egress -/

/-- The choice of a center link (R171): none while it is DOWN or busy; else its head answer, else the head set of the stream of
lowest priority value and number, else a notice frame on the notice link, else a pass-through frame on the through link. What
goes out is the answer's frame (R172) or the set's first fragment (R173), for its destination, and the pass-through frame as it
was received; the notice frame is stated in `NoticesJoinTheTailAndLeaveInFrames`. At the end of every command the choice is made
once for C0 and then once for C1 (log 7). A frame that the device originates has the link header, the transport header and the
check of R179 and Table 9-2; the content of an answer is Table 9-5's, that of a fragment Table 9-4's, with their codes. -/
def Obligations.EgressChoiceTakesTheFirstSource : Prop :=
  (∀ (c : CenterId) (s : State),
     let x := s.center c
     ((x.up = false ∨ x.tx ≠ none) → choose c s = s) ∧
     (x.up = true → x.tx = none →
       (∀ a rest, x.answers = a :: rest → choose c s = s.setCenter c { x with
         answers := rest, tx := some (.answer (ownFrame s a.destination 3 (answerContent s.unitNumber a))) }) ∧
       (x.answers = [] →
         (∀ k a rest, (s.stream k).config.link = c → (s.stream k).run.queue = a :: rest →
           (∀ j, (s.stream j).config.link = c → (s.stream j).run.queue ≠ [] →
             (s.stream k).config.priority < (s.stream j).config.priority ∨
               (s.stream k).config.priority = (s.stream j).config.priority ∧ k ≤ j) →
           let destination := (s.stream k).config.destination
           choose c s = s.setCenter c { x with
             tx := some (.fragment k 0 destination (ownFrame s destination 4 (fragmentContent k a 0))) }) ∧
         ((∀ k, (s.stream k).config.link = c → (s.stream k).run.queue = []) →
           (s.globals.noticeLink = c → s.notices.queue ≠ [] → choose c s = beginNotices c s) ∧
           ((s.globals.noticeLink ≠ c ∨ s.notices.queue = []) →
             (∀ b rest, s.globals.throughLink = c → s.passThrough = b :: rest →
               choose c s = { s.setCenter c { x with tx := some (.passThrough b) } with passThrough := rest }) ∧
             (s.globals.throughLink ≠ c ∨ s.passThrough = [] → choose c s = s)))))) ∧
  (∀ s : State, finish s = choose .c1 (choose .c0 s)) ∧
  (∀ n : Nat, be8 n = [BitVec.ofNat 8 n] ∧ be16 n = [BitVec.ofNat 8 (n / 256), BitVec.ofNat 8 n] ∧
     be24 n = [BitVec.ofNat 8 (n / 65536), BitVec.ofNat 8 (n / 256), BitVec.ofNat 8 n] ∧
     be32 n = [BitVec.ofNat 8 (n / 16777216), BitVec.ofNat 8 (n / 65536), BitVec.ofNat 8 (n / 256), BitVec.ofNat 8 n]) ∧
  (∀ (s : State) (destination kind : Nat) (content : List Byte),
     let bytes := be16 destination ++ be16 0 ++ be16 s.globals.transportType ++ be16 kind ++ be16 content.length ++ content
     ownFrame s destination kind content = bytes ++ be32 (checkValue bytes)) ∧
  (∀ (unit : Nat) (a : Answer), answerContent unit a = be32 unit ++ be16 a.tag ++ be8 a.kind ++ be8 a.result.code ++
     be16 a.target ++ be16 a.payload.length ++ a.payload) ∧
  (∀ (k : StreamNo) (a : AlignedSet) (i : Nat),
     let cells := (a.cells.drop (120 * i)).take 120
     fragmentContent k a i = be8 k.val ++ be8 a.cause.code ++
       be8 ((if a.flags.complete then 1 else 0) + (if a.flags.timeHoldover then 2 else 0) +
         (if a.flags.timeFree then 4 else 0) + (if a.flags.discontinuity then 8 else 0) +
         (if a.flags.suspectPresent then 16 else 0)) ++
       be8 i ++ be8 ((a.cells.length + 119) / 120) ++ be8 cells.length ++ be16 a.cells.length ++ be16 (120 * i) ++
       be32 a.sequence ++ (be32 a.instant.sec ++ be32 a.instant.ns) ++ [0, 0] ++
       cells.flatMap (fun c => be8 c.state.code ++ [0, 0, 0] ++ be32 c.first.toNat ++ be32 c.second.toNat)) ∧
  (([.complete, .deadline, .forced, .cut, .stepped, .flushed] : List CloseCause).map CloseCause.code = List.range 6 ∧
     ([.present, .suspect, .short, .absentStation, .notDue, .missing] : List CellState).map CellState.code = List.range 6 ∧
     ([.ok, .failed, .badRequest, .badTarget, .outOfBounds, .refusedState, .refusedRunning, .codeInUse, .busy, .noTime,
       .queueFull, .timedOut, .aborted] : List Result).map Result.code = List.range 13)

/-- Ends of transmissions (R172, R173): an answer, pass-through or notice frame leaves the link idle; after a fragment that is
not the last, the next begins at once for the same destination; after the last the set leaves its queue as sent. -/
def Obligations.TransmissionsEndAndFragmentsFollow : Prop :=
  ∀ (gap : Nat) (c : CenterId) (s : State),
    let u := s.runClock gap
    (∀ b, ((s.center c).tx = some (.answer b) ∨ (s.center c).tx = some (.passThrough b) ∨
        (s.center c).tx = some (.notices b)) →
      exec (.frameTransmissionComplete gap c) s = .next (finish (u.setCenter c { s.center c with tx := none }))) ∧
    (∀ k i d b a rest, (s.center c).tx = some (.fragment k i d b) → (s.stream k).run.queue = a :: rest →
      (120 * (i + 1) < a.cells.length → exec (.setFragmentComplete gap c) s =
        .next (finish (u.setCenter c { s.center c with
          tx := some (.fragment k (i + 1) d (ownFrame s d 4 (fragmentContent k a (i + 1)))) }))) ∧
      (a.cells.length ≤ 120 * (i + 1) → exec (.setFragmentComplete gap c) s =
        .next (finish ((u.setStreamRun k { (s.stream k).run with
          queue := rest, sent := satInc (s.stream k).run.sent }).setCenter c { s.center c with tx := none }))))

/-! ## Invariants -/

/-- Every step keeps the Timebase consistent. -/
def Obligations.EveryStepKeepsTheTimebaseConsistent : Prop :=
  ∀ s t : State, TimebaseOk s.timebase → step s = .next t → TimebaseOk t.timebase

/-- Every step keeps every queue within its capacity, when the Timeline is ordered. -/
def Obligations.EveryStepKeepsTheCapacities : Prop :=
  ∀ s t : State, WithinCapacity s → StoreOk s → step s = .next t → WithinCapacity t

/-- Every step keeps the Code Map equal to the codes of the descriptors that are not DISABLED, each once. -/
def Obligations.EveryStepKeepsTheCodeMap : Prop :=
  ∀ s t : State, CodeMapOk s → step s = .next t → CodeMapOk t

/-- Every step keeps the Timeline ordered and every report slot accounted for, when the queues are within their capacities. -/
def Obligations.EveryStepKeepsTheSlotsAccountedFor : Prop :=
  ∀ s t : State, StoreOk s → WithinCapacity s → step s = .next t → StoreOk t

/-- The invariants hold at reset. -/
def Obligations.InvariantsHoldAtReset : Prop :=
  TimebaseOk State.reset.timebase ∧ WithinCapacity State.reset ∧ CodeMapOk State.reset ∧ StoreOk State.reset
end

