-- ==== Sys2Proof/Laws/State.lean ====
section
/-! SUPPORT. One lemma per field per update of the state, so that no proof unfolds a record update, and what each accessor
reads after each update. -/

namespace Sys2Proof.Machine.State

set_option Elab.async false

section
variable (s : State) (n : StationNo) (x : Station)

@[simp] theorem setStation_pending : (s.setStation n x).pending = s.pending := rfl
@[simp] theorem setStation_elapsed : (s.setStation n x).elapsed = s.elapsed := rfl
@[simp] theorem setStation_quietA : (s.setStation n x).quietA = s.quietA := rfl
@[simp] theorem setStation_quietB : (s.setStation n x).quietB = s.quietB := rfl
@[simp] theorem setStation_timebase : (s.setStation n x).timebase = s.timebase := rfl
@[simp] theorem setStation_globals : (s.setStation n x).globals = s.globals := rfl
@[simp] theorem setStation_unitNumber : (s.setStation n x).unitNumber = s.unitNumber := rfl
@[simp] theorem setStation_codeMap : (s.setStation n x).codeMap = s.codeMap := rfl
@[simp] theorem setStation_latencyEnd : (s.setStation n x).latencyEnd = s.latencyEnd := rfl
@[simp] theorem setStation_streams : (s.setStation n x).streams = s.streams := rfl
@[simp] theorem setStation_plan : (s.setStation n x).plan = s.plan := rfl
@[simp] theorem setStation_timeline : (s.setStation n x).timeline = s.timeline := rfl
@[simp] theorem setStation_freeSlots : (s.setStation n x).freeSlots = s.freeSlots := rfl
@[simp] theorem setStation_forcedCloses : (s.setStation n x).forcedCloses = s.forcedCloses := rfl
@[simp] theorem setStation_storeDiscards : (s.setStation n x).storeDiscards = s.storeDiscards := rfl
@[simp] theorem setStation_notices : (s.setStation n x).notices = s.notices := rfl
@[simp] theorem setStation_lines : (s.setStation n x).lines = s.lines := rfl
@[simp] theorem setStation_center0 : (s.setStation n x).center0 = s.center0 := rfl
@[simp] theorem setStation_center1 : (s.setStation n x).center1 = s.center1 := rfl
@[simp] theorem setStation_passThrough : (s.setStation n x).passThrough = s.passThrough := rfl
@[simp] theorem setStation_pointer : (s.setStation n x).pointer = s.pointer := rfl
@[simp] theorem setStation_inputQueue : (s.setStation n x).inputQueue = s.inputQueue := rfl
@[simp] theorem setStation_slots : (s.setStation n x).slots = s.slots := rfl

end

section
variable (s : State) (n : StationNo) (x : StationRun)

@[simp] theorem setRun_pending : (s.setRun n x).pending = s.pending := rfl
@[simp] theorem setRun_elapsed : (s.setRun n x).elapsed = s.elapsed := rfl
@[simp] theorem setRun_quietA : (s.setRun n x).quietA = s.quietA := rfl
@[simp] theorem setRun_quietB : (s.setRun n x).quietB = s.quietB := rfl
@[simp] theorem setRun_timebase : (s.setRun n x).timebase = s.timebase := rfl
@[simp] theorem setRun_globals : (s.setRun n x).globals = s.globals := rfl
@[simp] theorem setRun_unitNumber : (s.setRun n x).unitNumber = s.unitNumber := rfl
@[simp] theorem setRun_codeMap : (s.setRun n x).codeMap = s.codeMap := rfl
@[simp] theorem setRun_latencyEnd : (s.setRun n x).latencyEnd = s.latencyEnd := rfl
@[simp] theorem setRun_streams : (s.setRun n x).streams = s.streams := rfl
@[simp] theorem setRun_plan : (s.setRun n x).plan = s.plan := rfl
@[simp] theorem setRun_timeline : (s.setRun n x).timeline = s.timeline := rfl
@[simp] theorem setRun_freeSlots : (s.setRun n x).freeSlots = s.freeSlots := rfl
@[simp] theorem setRun_forcedCloses : (s.setRun n x).forcedCloses = s.forcedCloses := rfl
@[simp] theorem setRun_storeDiscards : (s.setRun n x).storeDiscards = s.storeDiscards := rfl
@[simp] theorem setRun_notices : (s.setRun n x).notices = s.notices := rfl
@[simp] theorem setRun_lines : (s.setRun n x).lines = s.lines := rfl
@[simp] theorem setRun_center0 : (s.setRun n x).center0 = s.center0 := rfl
@[simp] theorem setRun_center1 : (s.setRun n x).center1 = s.center1 := rfl
@[simp] theorem setRun_passThrough : (s.setRun n x).passThrough = s.passThrough := rfl
@[simp] theorem setRun_pointer : (s.setRun n x).pointer = s.pointer := rfl
@[simp] theorem setRun_inputQueue : (s.setRun n x).inputQueue = s.inputQueue := rfl
@[simp] theorem setRun_slots : (s.setRun n x).slots = s.slots := rfl

end

section
variable (s : State) (n : StationNo) (x : StationConfig)

@[simp] theorem setConfig_pending : (s.setConfig n x).pending = s.pending := rfl
@[simp] theorem setConfig_elapsed : (s.setConfig n x).elapsed = s.elapsed := rfl
@[simp] theorem setConfig_quietA : (s.setConfig n x).quietA = s.quietA := rfl
@[simp] theorem setConfig_quietB : (s.setConfig n x).quietB = s.quietB := rfl
@[simp] theorem setConfig_timebase : (s.setConfig n x).timebase = s.timebase := rfl
@[simp] theorem setConfig_globals : (s.setConfig n x).globals = s.globals := rfl
@[simp] theorem setConfig_unitNumber : (s.setConfig n x).unitNumber = s.unitNumber := rfl
@[simp] theorem setConfig_codeMap : (s.setConfig n x).codeMap = s.codeMap := rfl
@[simp] theorem setConfig_latencyEnd : (s.setConfig n x).latencyEnd = s.latencyEnd := rfl
@[simp] theorem setConfig_streams : (s.setConfig n x).streams = s.streams := rfl
@[simp] theorem setConfig_plan : (s.setConfig n x).plan = s.plan := rfl
@[simp] theorem setConfig_timeline : (s.setConfig n x).timeline = s.timeline := rfl
@[simp] theorem setConfig_freeSlots : (s.setConfig n x).freeSlots = s.freeSlots := rfl
@[simp] theorem setConfig_forcedCloses : (s.setConfig n x).forcedCloses = s.forcedCloses := rfl
@[simp] theorem setConfig_storeDiscards : (s.setConfig n x).storeDiscards = s.storeDiscards := rfl
@[simp] theorem setConfig_notices : (s.setConfig n x).notices = s.notices := rfl
@[simp] theorem setConfig_lines : (s.setConfig n x).lines = s.lines := rfl
@[simp] theorem setConfig_center0 : (s.setConfig n x).center0 = s.center0 := rfl
@[simp] theorem setConfig_center1 : (s.setConfig n x).center1 = s.center1 := rfl
@[simp] theorem setConfig_passThrough : (s.setConfig n x).passThrough = s.passThrough := rfl
@[simp] theorem setConfig_pointer : (s.setConfig n x).pointer = s.pointer := rfl
@[simp] theorem setConfig_inputQueue : (s.setConfig n x).inputQueue = s.inputQueue := rfl
@[simp] theorem setConfig_slots : (s.setConfig n x).slots = s.slots := rfl

end

section
variable (s : State) (k : StreamNo) (x : Stream)

@[simp] theorem setStream_pending : (s.setStream k x).pending = s.pending := rfl
@[simp] theorem setStream_elapsed : (s.setStream k x).elapsed = s.elapsed := rfl
@[simp] theorem setStream_quietA : (s.setStream k x).quietA = s.quietA := rfl
@[simp] theorem setStream_quietB : (s.setStream k x).quietB = s.quietB := rfl
@[simp] theorem setStream_timebase : (s.setStream k x).timebase = s.timebase := rfl
@[simp] theorem setStream_globals : (s.setStream k x).globals = s.globals := rfl
@[simp] theorem setStream_unitNumber : (s.setStream k x).unitNumber = s.unitNumber := rfl
@[simp] theorem setStream_stations : (s.setStream k x).stations = s.stations := rfl
@[simp] theorem setStream_codeMap : (s.setStream k x).codeMap = s.codeMap := rfl
@[simp] theorem setStream_latencyEnd : (s.setStream k x).latencyEnd = s.latencyEnd := rfl
@[simp] theorem setStream_plan : (s.setStream k x).plan = s.plan := rfl
@[simp] theorem setStream_timeline : (s.setStream k x).timeline = s.timeline := rfl
@[simp] theorem setStream_freeSlots : (s.setStream k x).freeSlots = s.freeSlots := rfl
@[simp] theorem setStream_forcedCloses : (s.setStream k x).forcedCloses = s.forcedCloses := rfl
@[simp] theorem setStream_storeDiscards : (s.setStream k x).storeDiscards = s.storeDiscards := rfl
@[simp] theorem setStream_notices : (s.setStream k x).notices = s.notices := rfl
@[simp] theorem setStream_lines : (s.setStream k x).lines = s.lines := rfl
@[simp] theorem setStream_center0 : (s.setStream k x).center0 = s.center0 := rfl
@[simp] theorem setStream_center1 : (s.setStream k x).center1 = s.center1 := rfl
@[simp] theorem setStream_passThrough : (s.setStream k x).passThrough = s.passThrough := rfl
@[simp] theorem setStream_pointer : (s.setStream k x).pointer = s.pointer := rfl
@[simp] theorem setStream_inputQueue : (s.setStream k x).inputQueue = s.inputQueue := rfl
@[simp] theorem setStream_slots : (s.setStream k x).slots = s.slots := rfl

end

section
variable (s : State) (k : StreamNo) (x : StreamRun)

@[simp] theorem setStreamRun_pending : (s.setStreamRun k x).pending = s.pending := rfl
@[simp] theorem setStreamRun_elapsed : (s.setStreamRun k x).elapsed = s.elapsed := rfl
@[simp] theorem setStreamRun_quietA : (s.setStreamRun k x).quietA = s.quietA := rfl
@[simp] theorem setStreamRun_quietB : (s.setStreamRun k x).quietB = s.quietB := rfl
@[simp] theorem setStreamRun_timebase : (s.setStreamRun k x).timebase = s.timebase := rfl
@[simp] theorem setStreamRun_globals : (s.setStreamRun k x).globals = s.globals := rfl
@[simp] theorem setStreamRun_unitNumber : (s.setStreamRun k x).unitNumber = s.unitNumber := rfl
@[simp] theorem setStreamRun_stations : (s.setStreamRun k x).stations = s.stations := rfl
@[simp] theorem setStreamRun_codeMap : (s.setStreamRun k x).codeMap = s.codeMap := rfl
@[simp] theorem setStreamRun_latencyEnd : (s.setStreamRun k x).latencyEnd = s.latencyEnd := rfl
@[simp] theorem setStreamRun_plan : (s.setStreamRun k x).plan = s.plan := rfl
@[simp] theorem setStreamRun_timeline : (s.setStreamRun k x).timeline = s.timeline := rfl
@[simp] theorem setStreamRun_freeSlots : (s.setStreamRun k x).freeSlots = s.freeSlots := rfl
@[simp] theorem setStreamRun_forcedCloses : (s.setStreamRun k x).forcedCloses = s.forcedCloses := rfl
@[simp] theorem setStreamRun_storeDiscards : (s.setStreamRun k x).storeDiscards = s.storeDiscards := rfl
@[simp] theorem setStreamRun_notices : (s.setStreamRun k x).notices = s.notices := rfl
@[simp] theorem setStreamRun_lines : (s.setStreamRun k x).lines = s.lines := rfl
@[simp] theorem setStreamRun_center0 : (s.setStreamRun k x).center0 = s.center0 := rfl
@[simp] theorem setStreamRun_center1 : (s.setStreamRun k x).center1 = s.center1 := rfl
@[simp] theorem setStreamRun_passThrough : (s.setStreamRun k x).passThrough = s.passThrough := rfl
@[simp] theorem setStreamRun_pointer : (s.setStreamRun k x).pointer = s.pointer := rfl
@[simp] theorem setStreamRun_inputQueue : (s.setStreamRun k x).inputQueue = s.inputQueue := rfl
@[simp] theorem setStreamRun_slots : (s.setStreamRun k x).slots = s.slots := rfl

end

section
variable (s : State) (l : LineId) (x : LineLink)

@[simp] theorem setLine_pending : (s.setLine l x).pending = s.pending := rfl
@[simp] theorem setLine_elapsed : (s.setLine l x).elapsed = s.elapsed := rfl
@[simp] theorem setLine_quietA : (s.setLine l x).quietA = s.quietA := rfl
@[simp] theorem setLine_quietB : (s.setLine l x).quietB = s.quietB := rfl
@[simp] theorem setLine_timebase : (s.setLine l x).timebase = s.timebase := rfl
@[simp] theorem setLine_globals : (s.setLine l x).globals = s.globals := rfl
@[simp] theorem setLine_unitNumber : (s.setLine l x).unitNumber = s.unitNumber := rfl
@[simp] theorem setLine_stations : (s.setLine l x).stations = s.stations := rfl
@[simp] theorem setLine_codeMap : (s.setLine l x).codeMap = s.codeMap := rfl
@[simp] theorem setLine_latencyEnd : (s.setLine l x).latencyEnd = s.latencyEnd := rfl
@[simp] theorem setLine_streams : (s.setLine l x).streams = s.streams := rfl
@[simp] theorem setLine_plan : (s.setLine l x).plan = s.plan := rfl
@[simp] theorem setLine_timeline : (s.setLine l x).timeline = s.timeline := rfl
@[simp] theorem setLine_freeSlots : (s.setLine l x).freeSlots = s.freeSlots := rfl
@[simp] theorem setLine_forcedCloses : (s.setLine l x).forcedCloses = s.forcedCloses := rfl
@[simp] theorem setLine_storeDiscards : (s.setLine l x).storeDiscards = s.storeDiscards := rfl
@[simp] theorem setLine_notices : (s.setLine l x).notices = s.notices := rfl
@[simp] theorem setLine_center0 : (s.setLine l x).center0 = s.center0 := rfl
@[simp] theorem setLine_center1 : (s.setLine l x).center1 = s.center1 := rfl
@[simp] theorem setLine_passThrough : (s.setLine l x).passThrough = s.passThrough := rfl
@[simp] theorem setLine_pointer : (s.setLine l x).pointer = s.pointer := rfl
@[simp] theorem setLine_inputQueue : (s.setLine l x).inputQueue = s.inputQueue := rfl
@[simp] theorem setLine_slots : (s.setLine l x).slots = s.slots := rfl

end

section
variable (s : State) (d : SlotNo) (x : Option HeldAnswer)

@[simp] theorem setSlot_pending : (s.setSlot d x).pending = s.pending := rfl
@[simp] theorem setSlot_elapsed : (s.setSlot d x).elapsed = s.elapsed := rfl
@[simp] theorem setSlot_quietA : (s.setSlot d x).quietA = s.quietA := rfl
@[simp] theorem setSlot_quietB : (s.setSlot d x).quietB = s.quietB := rfl
@[simp] theorem setSlot_timebase : (s.setSlot d x).timebase = s.timebase := rfl
@[simp] theorem setSlot_globals : (s.setSlot d x).globals = s.globals := rfl
@[simp] theorem setSlot_unitNumber : (s.setSlot d x).unitNumber = s.unitNumber := rfl
@[simp] theorem setSlot_stations : (s.setSlot d x).stations = s.stations := rfl
@[simp] theorem setSlot_codeMap : (s.setSlot d x).codeMap = s.codeMap := rfl
@[simp] theorem setSlot_latencyEnd : (s.setSlot d x).latencyEnd = s.latencyEnd := rfl
@[simp] theorem setSlot_streams : (s.setSlot d x).streams = s.streams := rfl
@[simp] theorem setSlot_plan : (s.setSlot d x).plan = s.plan := rfl
@[simp] theorem setSlot_timeline : (s.setSlot d x).timeline = s.timeline := rfl
@[simp] theorem setSlot_freeSlots : (s.setSlot d x).freeSlots = s.freeSlots := rfl
@[simp] theorem setSlot_forcedCloses : (s.setSlot d x).forcedCloses = s.forcedCloses := rfl
@[simp] theorem setSlot_storeDiscards : (s.setSlot d x).storeDiscards = s.storeDiscards := rfl
@[simp] theorem setSlot_notices : (s.setSlot d x).notices = s.notices := rfl
@[simp] theorem setSlot_lines : (s.setSlot d x).lines = s.lines := rfl
@[simp] theorem setSlot_center0 : (s.setSlot d x).center0 = s.center0 := rfl
@[simp] theorem setSlot_center1 : (s.setSlot d x).center1 = s.center1 := rfl
@[simp] theorem setSlot_passThrough : (s.setSlot d x).passThrough = s.passThrough := rfl
@[simp] theorem setSlot_pointer : (s.setSlot d x).pointer = s.pointer := rfl
@[simp] theorem setSlot_inputQueue : (s.setSlot d x).inputQueue = s.inputQueue := rfl

end

section
variable (s : State) (ns : Nat)

@[simp] theorem runClock_pending : (s.runClock ns).pending = s.pending := rfl
@[simp] theorem runClock_globals : (s.runClock ns).globals = s.globals := rfl
@[simp] theorem runClock_unitNumber : (s.runClock ns).unitNumber = s.unitNumber := rfl
@[simp] theorem runClock_stations : (s.runClock ns).stations = s.stations := rfl
@[simp] theorem runClock_codeMap : (s.runClock ns).codeMap = s.codeMap := rfl
@[simp] theorem runClock_latencyEnd : (s.runClock ns).latencyEnd = s.latencyEnd := rfl
@[simp] theorem runClock_streams : (s.runClock ns).streams = s.streams := rfl
@[simp] theorem runClock_plan : (s.runClock ns).plan = s.plan := rfl
@[simp] theorem runClock_timeline : (s.runClock ns).timeline = s.timeline := rfl
@[simp] theorem runClock_freeSlots : (s.runClock ns).freeSlots = s.freeSlots := rfl
@[simp] theorem runClock_forcedCloses : (s.runClock ns).forcedCloses = s.forcedCloses := rfl
@[simp] theorem runClock_storeDiscards : (s.runClock ns).storeDiscards = s.storeDiscards := rfl
@[simp] theorem runClock_notices : (s.runClock ns).notices = s.notices := rfl
@[simp] theorem runClock_lines : (s.runClock ns).lines = s.lines := rfl
@[simp] theorem runClock_center0 : (s.runClock ns).center0 = s.center0 := rfl
@[simp] theorem runClock_center1 : (s.runClock ns).center1 = s.center1 := rfl
@[simp] theorem runClock_passThrough : (s.runClock ns).passThrough = s.passThrough := rfl
@[simp] theorem runClock_pointer : (s.runClock ns).pointer = s.pointer := rfl
@[simp] theorem runClock_inputQueue : (s.runClock ns).inputQueue = s.inputQueue := rfl
@[simp] theorem runClock_slots : (s.runClock ns).slots = s.slots := rfl

end

section
variable (s : State) (c : CenterId) (x : CenterLink)

@[simp] theorem setCenter_pending : (s.setCenter c x).pending = s.pending := by cases c <;> rfl
@[simp] theorem setCenter_elapsed : (s.setCenter c x).elapsed = s.elapsed := by cases c <;> rfl
@[simp] theorem setCenter_quietA : (s.setCenter c x).quietA = s.quietA := by cases c <;> rfl
@[simp] theorem setCenter_quietB : (s.setCenter c x).quietB = s.quietB := by cases c <;> rfl
@[simp] theorem setCenter_timebase : (s.setCenter c x).timebase = s.timebase := by cases c <;> rfl
@[simp] theorem setCenter_globals : (s.setCenter c x).globals = s.globals := by cases c <;> rfl
@[simp] theorem setCenter_unitNumber : (s.setCenter c x).unitNumber = s.unitNumber := by cases c <;> rfl
@[simp] theorem setCenter_stations : (s.setCenter c x).stations = s.stations := by cases c <;> rfl
@[simp] theorem setCenter_codeMap : (s.setCenter c x).codeMap = s.codeMap := by cases c <;> rfl
@[simp] theorem setCenter_latencyEnd : (s.setCenter c x).latencyEnd = s.latencyEnd := by cases c <;> rfl
@[simp] theorem setCenter_streams : (s.setCenter c x).streams = s.streams := by cases c <;> rfl
@[simp] theorem setCenter_plan : (s.setCenter c x).plan = s.plan := by cases c <;> rfl
@[simp] theorem setCenter_timeline : (s.setCenter c x).timeline = s.timeline := by cases c <;> rfl
@[simp] theorem setCenter_freeSlots : (s.setCenter c x).freeSlots = s.freeSlots := by cases c <;> rfl
@[simp] theorem setCenter_forcedCloses : (s.setCenter c x).forcedCloses = s.forcedCloses := by cases c <;> rfl
@[simp] theorem setCenter_storeDiscards : (s.setCenter c x).storeDiscards = s.storeDiscards := by cases c <;> rfl
@[simp] theorem setCenter_notices : (s.setCenter c x).notices = s.notices := by cases c <;> rfl
@[simp] theorem setCenter_lines : (s.setCenter c x).lines = s.lines := by cases c <;> rfl
@[simp] theorem setCenter_passThrough : (s.setCenter c x).passThrough = s.passThrough := by cases c <;> rfl
@[simp] theorem setCenter_pointer : (s.setCenter c x).pointer = s.pointer := by cases c <;> rfl
@[simp] theorem setCenter_inputQueue : (s.setCenter c x).inputQueue = s.inputQueue := by cases c <;> rfl
@[simp] theorem setCenter_slots : (s.setCenter c x).slots = s.slots := by cases c <;> rfl

end

section
variable (s : State) (i : InputId) (t : Nat)

@[simp] theorem setQuiet_pending : (s.setQuiet i t).pending = s.pending := by cases i <;> rfl
@[simp] theorem setQuiet_elapsed : (s.setQuiet i t).elapsed = s.elapsed := by cases i <;> rfl
@[simp] theorem setQuiet_timebase : (s.setQuiet i t).timebase = s.timebase := by cases i <;> rfl
@[simp] theorem setQuiet_globals : (s.setQuiet i t).globals = s.globals := by cases i <;> rfl
@[simp] theorem setQuiet_unitNumber : (s.setQuiet i t).unitNumber = s.unitNumber := by cases i <;> rfl
@[simp] theorem setQuiet_stations : (s.setQuiet i t).stations = s.stations := by cases i <;> rfl
@[simp] theorem setQuiet_codeMap : (s.setQuiet i t).codeMap = s.codeMap := by cases i <;> rfl
@[simp] theorem setQuiet_latencyEnd : (s.setQuiet i t).latencyEnd = s.latencyEnd := by cases i <;> rfl
@[simp] theorem setQuiet_streams : (s.setQuiet i t).streams = s.streams := by cases i <;> rfl
@[simp] theorem setQuiet_plan : (s.setQuiet i t).plan = s.plan := by cases i <;> rfl
@[simp] theorem setQuiet_timeline : (s.setQuiet i t).timeline = s.timeline := by cases i <;> rfl
@[simp] theorem setQuiet_freeSlots : (s.setQuiet i t).freeSlots = s.freeSlots := by cases i <;> rfl
@[simp] theorem setQuiet_forcedCloses : (s.setQuiet i t).forcedCloses = s.forcedCloses := by cases i <;> rfl
@[simp] theorem setQuiet_storeDiscards : (s.setQuiet i t).storeDiscards = s.storeDiscards := by cases i <;> rfl
@[simp] theorem setQuiet_notices : (s.setQuiet i t).notices = s.notices := by cases i <;> rfl
@[simp] theorem setQuiet_lines : (s.setQuiet i t).lines = s.lines := by cases i <;> rfl
@[simp] theorem setQuiet_center0 : (s.setQuiet i t).center0 = s.center0 := by cases i <;> rfl
@[simp] theorem setQuiet_center1 : (s.setQuiet i t).center1 = s.center1 := by cases i <;> rfl
@[simp] theorem setQuiet_passThrough : (s.setQuiet i t).passThrough = s.passThrough := by cases i <;> rfl
@[simp] theorem setQuiet_pointer : (s.setQuiet i t).pointer = s.pointer := by cases i <;> rfl
@[simp] theorem setQuiet_inputQueue : (s.setQuiet i t).inputQueue = s.inputQueue := by cases i <;> rfl
@[simp] theorem setQuiet_slots : (s.setQuiet i t).slots = s.slots := by cases i <;> rfl
@[simp] theorem quiet_setQuiet : (s.setQuiet i t).quiet i = t := by cases i <;> rfl
@[simp] theorem setQuiet_localTime : (s.setQuiet i t).localTime = s.localTime := by simp only [localTime, setQuiet_timebase]
@[simp] theorem setQuiet_center (c : CenterId) : (s.setQuiet i t).center c = s.center c := by
  cases c <;> simp only [center, setQuiet_center0, setQuiet_center1]
@[simp] theorem runClock_quiet (ns : Nat) : (s.runClock ns).quiet i = s.quiet i := by cases i <;> rfl

end

/-! ## The clock -/

@[simp] theorem runClock_elapsed (s : State) (ns : Nat) : (s.runClock ns).elapsed = s.elapsed + ns := rfl
@[simp] theorem runClock_quietA (s : State) (ns : Nat) : (s.runClock ns).quietA = s.quietA := rfl
@[simp] theorem runClock_quietB (s : State) (ns : Nat) : (s.runClock ns).quietB = s.quietB := rfl
@[simp] theorem runClock_localTime (s : State) (ns : Nat) : (s.runClock ns).localTime = addNs s.localTime ns := by
  simp only [localTime, runClock]

/-! ## Accessors after updates of another part -/

@[simp] theorem station_setStream (s : State) (k : StreamNo) (x : Stream) (m : StationNo) : (s.setStream k x).station m = s.station m := rfl
@[simp] theorem station_setStreamRun (s : State) (k : StreamNo) (x : StreamRun) (m : StationNo) : (s.setStreamRun k x).station m = s.station m := rfl
@[simp] theorem station_setLine (s : State) (l : LineId) (x : LineLink) (m : StationNo) : (s.setLine l x).station m = s.station m := rfl
@[simp] theorem station_setSlot (s : State) (d : SlotNo) (x : Option HeldAnswer) (m : StationNo) : (s.setSlot d x).station m = s.station m := rfl
@[simp] theorem station_runClock (s : State) (ns : Nat) (m : StationNo) : (s.runClock ns).station m = s.station m := rfl
@[simp] theorem station_setCenter (s : State) (c : CenterId) (x : CenterLink) (m : StationNo) : (s.setCenter c x).station m = s.station m := by cases c <;> rfl
@[simp] theorem stream_setStation (s : State) (n : StationNo) (x : Station) (m : StreamNo) : (s.setStation n x).stream m = s.stream m := rfl
@[simp] theorem stream_setRun (s : State) (n : StationNo) (x : StationRun) (m : StreamNo) : (s.setRun n x).stream m = s.stream m := rfl
@[simp] theorem stream_setConfig (s : State) (n : StationNo) (x : StationConfig) (m : StreamNo) : (s.setConfig n x).stream m = s.stream m := rfl
@[simp] theorem stream_setLine (s : State) (l : LineId) (x : LineLink) (m : StreamNo) : (s.setLine l x).stream m = s.stream m := rfl
@[simp] theorem stream_setSlot (s : State) (d : SlotNo) (x : Option HeldAnswer) (m : StreamNo) : (s.setSlot d x).stream m = s.stream m := rfl
@[simp] theorem stream_runClock (s : State) (ns : Nat) (m : StreamNo) : (s.runClock ns).stream m = s.stream m := rfl
@[simp] theorem stream_setCenter (s : State) (c : CenterId) (x : CenterLink) (m : StreamNo) : (s.setCenter c x).stream m = s.stream m := by cases c <;> rfl
@[simp] theorem line_setStation (s : State) (n : StationNo) (x : Station) (m : LineId) : (s.setStation n x).line m = s.line m := rfl
@[simp] theorem line_setRun (s : State) (n : StationNo) (x : StationRun) (m : LineId) : (s.setRun n x).line m = s.line m := rfl
@[simp] theorem line_setConfig (s : State) (n : StationNo) (x : StationConfig) (m : LineId) : (s.setConfig n x).line m = s.line m := rfl
@[simp] theorem line_setStream (s : State) (k : StreamNo) (x : Stream) (m : LineId) : (s.setStream k x).line m = s.line m := rfl
@[simp] theorem line_setStreamRun (s : State) (k : StreamNo) (x : StreamRun) (m : LineId) : (s.setStreamRun k x).line m = s.line m := rfl
@[simp] theorem line_setSlot (s : State) (d : SlotNo) (x : Option HeldAnswer) (m : LineId) : (s.setSlot d x).line m = s.line m := rfl
@[simp] theorem line_runClock (s : State) (ns : Nat) (m : LineId) : (s.runClock ns).line m = s.line m := rfl
@[simp] theorem line_setCenter (s : State) (c : CenterId) (x : CenterLink) (m : LineId) : (s.setCenter c x).line m = s.line m := by cases c <;> rfl
@[simp] theorem slot_setStation (s : State) (n : StationNo) (x : Station) (m : SlotNo) : (s.setStation n x).slot m = s.slot m := rfl
@[simp] theorem slot_setRun (s : State) (n : StationNo) (x : StationRun) (m : SlotNo) : (s.setRun n x).slot m = s.slot m := rfl
@[simp] theorem slot_setConfig (s : State) (n : StationNo) (x : StationConfig) (m : SlotNo) : (s.setConfig n x).slot m = s.slot m := rfl
@[simp] theorem slot_setStream (s : State) (k : StreamNo) (x : Stream) (m : SlotNo) : (s.setStream k x).slot m = s.slot m := rfl
@[simp] theorem slot_setStreamRun (s : State) (k : StreamNo) (x : StreamRun) (m : SlotNo) : (s.setStreamRun k x).slot m = s.slot m := rfl
@[simp] theorem slot_setLine (s : State) (l : LineId) (x : LineLink) (m : SlotNo) : (s.setLine l x).slot m = s.slot m := rfl
@[simp] theorem slot_runClock (s : State) (ns : Nat) (m : SlotNo) : (s.runClock ns).slot m = s.slot m := rfl
@[simp] theorem slot_setCenter (s : State) (c : CenterId) (x : CenterLink) (m : SlotNo) : (s.setCenter c x).slot m = s.slot m := by cases c <;> rfl
@[simp] theorem center_setStation (s : State) (n : StationNo) (x : Station) (m : CenterId) : (s.setStation n x).center m = s.center m := by cases m <;> rfl
@[simp] theorem center_setRun (s : State) (n : StationNo) (x : StationRun) (m : CenterId) : (s.setRun n x).center m = s.center m := by cases m <;> rfl
@[simp] theorem center_setConfig (s : State) (n : StationNo) (x : StationConfig) (m : CenterId) : (s.setConfig n x).center m = s.center m := by cases m <;> rfl
@[simp] theorem center_setStream (s : State) (k : StreamNo) (x : Stream) (m : CenterId) : (s.setStream k x).center m = s.center m := by cases m <;> rfl
@[simp] theorem center_setStreamRun (s : State) (k : StreamNo) (x : StreamRun) (m : CenterId) : (s.setStreamRun k x).center m = s.center m := by cases m <;> rfl
@[simp] theorem center_setLine (s : State) (l : LineId) (x : LineLink) (m : CenterId) : (s.setLine l x).center m = s.center m := by cases m <;> rfl
@[simp] theorem center_setSlot (s : State) (d : SlotNo) (x : Option HeldAnswer) (m : CenterId) : (s.setSlot d x).center m = s.center m := by cases m <;> rfl
@[simp] theorem center_runClock (s : State) (ns : Nat) (m : CenterId) : (s.runClock ns).center m = s.center m := by cases m <;> rfl
@[simp] theorem localTime_setStation (s : State) (n : StationNo) (x : Station) : (s.setStation n x).localTime = s.localTime := rfl
@[simp] theorem localTime_setRun (s : State) (n : StationNo) (x : StationRun) : (s.setRun n x).localTime = s.localTime := rfl
@[simp] theorem localTime_setConfig (s : State) (n : StationNo) (x : StationConfig) : (s.setConfig n x).localTime = s.localTime := rfl
@[simp] theorem localTime_setStream (s : State) (k : StreamNo) (x : Stream) : (s.setStream k x).localTime = s.localTime := rfl
@[simp] theorem localTime_setStreamRun (s : State) (k : StreamNo) (x : StreamRun) : (s.setStreamRun k x).localTime = s.localTime := rfl
@[simp] theorem localTime_setLine (s : State) (l : LineId) (x : LineLink) : (s.setLine l x).localTime = s.localTime := rfl
@[simp] theorem localTime_setSlot (s : State) (d : SlotNo) (x : Option HeldAnswer) : (s.setSlot d x).localTime = s.localTime := rfl
@[simp] theorem localTime_setCenter (s : State) (c : CenterId) (x : CenterLink) : (s.setCenter c x).localTime = s.localTime := by cases c <;> rfl

/-! ## Accessors after updates of their own part -/

theorem station_setStation (s : State) (n m : StationNo) (x : Station) :
    (s.setStation n x).station m = if n = m then x else s.station m := by
  simp only [setStation, station, Fin.getElem_fin, Vector.getElem_set, Fin.ext_iff]

@[simp] theorem station_setStation_same (s : State) (n : StationNo) (x : Station) : (s.setStation n x).station n = x := by
  simp [station_setStation]

@[simp] theorem station_setStation_other {n m : StationNo} (s : State) (x : Station) (h : n ≠ m) :
    (s.setStation n x).station m = s.station m := by
  simp [station_setStation, h]

theorem station_setRun (s : State) (n m : StationNo) (x : StationRun) :
    (s.setRun n x).station m = if n = m then { s.station n with run := x } else s.station m := station_setStation _ _ _ _

@[simp] theorem station_setRun_same (s : State) (n : StationNo) (x : StationRun) :
    (s.setRun n x).station n = { s.station n with run := x } := station_setStation_same _ _ _

@[simp] theorem station_setRun_other {n m : StationNo} (s : State) (x : StationRun) (h : n ≠ m) :
    (s.setRun n x).station m = s.station m := station_setStation_other _ _ h

@[simp] theorem station_setConfig_same (s : State) (n : StationNo) (x : StationConfig) :
    (s.setConfig n x).station n = { s.station n with config := x } := station_setStation_same _ _ _

@[simp] theorem station_setConfig_other {n m : StationNo} (s : State) (x : StationConfig) (h : n ≠ m) :
    (s.setConfig n x).station m = s.station m := station_setStation_other _ _ h

theorem stream_setStream (s : State) (k m : StreamNo) (x : Stream) :
    (s.setStream k x).stream m = if k = m then x else s.stream m := by
  simp only [setStream, stream, Fin.getElem_fin, Vector.getElem_set, Fin.ext_iff]

@[simp] theorem stream_setStream_same (s : State) (k : StreamNo) (x : Stream) : (s.setStream k x).stream k = x := by
  simp [stream_setStream]

@[simp] theorem stream_setStream_other {k m : StreamNo} (s : State) (x : Stream) (h : k ≠ m) :
    (s.setStream k x).stream m = s.stream m := by
  simp [stream_setStream, h]

theorem stream_setStreamRun (s : State) (k m : StreamNo) (x : StreamRun) :
    (s.setStreamRun k x).stream m = if k = m then { s.stream k with run := x } else s.stream m := stream_setStream _ _ _ _

@[simp] theorem stream_setStreamRun_same (s : State) (k : StreamNo) (x : StreamRun) :
    (s.setStreamRun k x).stream k = { s.stream k with run := x } := stream_setStream_same _ _ _

@[simp] theorem stream_setStreamRun_other {k m : StreamNo} (s : State) (x : StreamRun) (h : k ≠ m) :
    (s.setStreamRun k x).stream m = s.stream m := stream_setStream_other _ _ h

theorem line_setLine (s : State) (l m : LineId) (x : LineLink) :
    (s.setLine l x).line m = if l = m then x else s.line m := by
  simp only [setLine, line, Fin.getElem_fin, Vector.getElem_set, Fin.ext_iff]

@[simp] theorem line_setLine_same (s : State) (l : LineId) (x : LineLink) : (s.setLine l x).line l = x := by
  simp [line_setLine]

@[simp] theorem line_setLine_other {l m : LineId} (s : State) (x : LineLink) (h : l ≠ m) :
    (s.setLine l x).line m = s.line m := by
  simp [line_setLine, h]

theorem slot_setSlot (s : State) (d m : SlotNo) (x : Option HeldAnswer) :
    (s.setSlot d x).slot m = if d = m then x else s.slot m := by
  simp only [setSlot, slot, Fin.getElem_fin, Vector.getElem_set, Fin.ext_iff]

@[simp] theorem slot_setSlot_same (s : State) (d : SlotNo) (x : Option HeldAnswer) : (s.setSlot d x).slot d = x := by
  simp [slot_setSlot]

@[simp] theorem slot_setSlot_other {d m : SlotNo} (s : State) (x : Option HeldAnswer) (h : d ≠ m) :
    (s.setSlot d x).slot m = s.slot m := by
  simp [slot_setSlot, h]

@[simp] theorem center_setCenter_same (s : State) (c : CenterId) (x : CenterLink) : (s.setCenter c x).center c = x := by
  cases c <;> rfl

@[simp] theorem center_setCenter_other {c m : CenterId} (s : State) (x : CenterLink) (h : c ≠ m) :
    (s.setCenter c x).center m = s.center m := by
  cases c <;> cases m <;> simp_all [setCenter, center]

/-! ## Two updates of one part -/

@[simp] theorem setStation_setStation (s : State) (n : StationNo) (x y : Station) :
    (s.setStation n x).setStation n y = s.setStation n y := by
  simp [setStation]

@[simp] theorem setRun_setRun (s : State) (n : StationNo) (r q : StationRun) :
    (s.setRun n r).setRun n q = s.setRun n q := by
  simp [setRun]

@[simp] theorem setRun_setStation (s : State) (n : StationNo) (x : Station) (r : StationRun) :
    (s.setStation n x).setRun n r = s.setStation n { x with run := r } := by
  simp [setRun]

@[simp] theorem setStream_setStream (s : State) (k : StreamNo) (x y : Stream) :
    (s.setStream k x).setStream k y = s.setStream k y := by
  simp [setStream]

@[simp] theorem setStreamRun_setStreamRun (s : State) (k : StreamNo) (r q : StreamRun) :
    (s.setStreamRun k r).setStreamRun k q = s.setStreamRun k q := by
  simp [setStreamRun]

@[simp] theorem setLine_setLine (s : State) (l : LineId) (x y : LineLink) :
    (s.setLine l x).setLine l y = s.setLine l y := by
  simp [setLine]

@[simp] theorem setCenter_setCenter (s : State) (c : CenterId) (x y : CenterLink) :
    (s.setCenter c x).setCenter c y = s.setCenter c y := by
  cases c <;> rfl

@[simp] theorem setSlot_setSlot (s : State) (d : SlotNo) (x y : Option HeldAnswer) :
    (s.setSlot d x).setSlot d y = s.setSlot d y := by
  simp [setSlot]

/-! ## Updates that write back what is there -/

@[simp] theorem setStation_station (s : State) (n : StationNo) : s.setStation n (s.station n) = s := by
  simp [setStation, station]

@[simp] theorem setRun_run (s : State) (n : StationNo) : s.setRun n (s.station n).run = s :=
  setStation_station s n

@[simp] theorem setStream_stream (s : State) (k : StreamNo) : s.setStream k (s.stream k) = s := by
  simp [setStream, stream]

@[simp] theorem setStreamRun_run (s : State) (k : StreamNo) : s.setStreamRun k (s.stream k).run = s :=
  setStream_stream s k

@[simp] theorem setCenter_center (s : State) (c : CenterId) : s.setCenter c (s.center c) = s := by
  cases c <;> rfl

end Sys2Proof.Machine.State

namespace Sys2Proof.Machine

/-! ## The vector map -/

@[simp] theorem getElem_mapVec {α β : Type} {n : Nat} (f : α → β) (v : Vector α n) (i : Nat) (h : i < n) :
    (mapVec f v)[i] = f v[i] := by
  rcases v with ⟨⟨l⟩, hl⟩
  simp [mapVec]

@[simp] theorem getElem_mapVec_fin {α β : Type} {n : Nat} (f : α → β) (v : Vector α n) (i : Fin n) :
    (mapVec f v)[i] = f v[i] := getElem_mapVec f v i.val i.isLt

end Sys2Proof.Machine
end

