-- ==== Sys2Proof/Laws/Ops.lean ====
section
/-! SUPPORT. What the shared operations of Ops, Flags and Egress leave alone: one lemma per field, for the simplifier, and the
length of a queue after a push. -/

namespace Sys2Proof.Machine

set_option Elab.async false

section
variable (s : State) (b : NoticeBody)

@[simp] theorem pushNotice_pending : (pushNotice b s).pending = s.pending := by unfold pushNotice; split <;> rfl
@[simp] theorem pushNotice_elapsed : (pushNotice b s).elapsed = s.elapsed := by unfold pushNotice; split <;> rfl
@[simp] theorem pushNotice_quietA : (pushNotice b s).quietA = s.quietA := by unfold pushNotice; split <;> rfl
@[simp] theorem pushNotice_quietB : (pushNotice b s).quietB = s.quietB := by unfold pushNotice; split <;> rfl
@[simp] theorem pushNotice_timebase : (pushNotice b s).timebase = s.timebase := by unfold pushNotice; split <;> rfl
@[simp] theorem pushNotice_globals : (pushNotice b s).globals = s.globals := by unfold pushNotice; split <;> rfl
@[simp] theorem pushNotice_unitNumber : (pushNotice b s).unitNumber = s.unitNumber := by unfold pushNotice; split <;> rfl
@[simp] theorem pushNotice_stations : (pushNotice b s).stations = s.stations := by unfold pushNotice; split <;> rfl
@[simp] theorem pushNotice_codeMap : (pushNotice b s).codeMap = s.codeMap := by unfold pushNotice; split <;> rfl
@[simp] theorem pushNotice_latencyEnd : (pushNotice b s).latencyEnd = s.latencyEnd := by unfold pushNotice; split <;> rfl
@[simp] theorem pushNotice_streams : (pushNotice b s).streams = s.streams := by unfold pushNotice; split <;> rfl
@[simp] theorem pushNotice_plan : (pushNotice b s).plan = s.plan := by unfold pushNotice; split <;> rfl
@[simp] theorem pushNotice_timeline : (pushNotice b s).timeline = s.timeline := by unfold pushNotice; split <;> rfl
@[simp] theorem pushNotice_freeSlots : (pushNotice b s).freeSlots = s.freeSlots := by unfold pushNotice; split <;> rfl
@[simp] theorem pushNotice_forcedCloses : (pushNotice b s).forcedCloses = s.forcedCloses := by unfold pushNotice; split <;> rfl
@[simp] theorem pushNotice_storeDiscards : (pushNotice b s).storeDiscards = s.storeDiscards := by unfold pushNotice; split <;> rfl
@[simp] theorem pushNotice_lines : (pushNotice b s).lines = s.lines := by unfold pushNotice; split <;> rfl
@[simp] theorem pushNotice_center0 : (pushNotice b s).center0 = s.center0 := by unfold pushNotice; split <;> rfl
@[simp] theorem pushNotice_center1 : (pushNotice b s).center1 = s.center1 := by unfold pushNotice; split <;> rfl
@[simp] theorem pushNotice_passThrough : (pushNotice b s).passThrough = s.passThrough := by unfold pushNotice; split <;> rfl
@[simp] theorem pushNotice_pointer : (pushNotice b s).pointer = s.pointer := by unfold pushNotice; split <;> rfl
@[simp] theorem pushNotice_inputQueue : (pushNotice b s).inputQueue = s.inputQueue := by unfold pushNotice; split <;> rfl
@[simp] theorem pushNotice_slots : (pushNotice b s).slots = s.slots := by unfold pushNotice; split <;> rfl
@[simp] theorem pushNotice_station (m : StationNo) : (pushNotice b s).station m = s.station m := by simp only [State.station, pushNotice_stations]
@[simp] theorem pushNotice_stream (m : StreamNo) : (pushNotice b s).stream m = s.stream m := by simp only [State.stream, pushNotice_streams]
@[simp] theorem pushNotice_line (m : LineId) : (pushNotice b s).line m = s.line m := by simp only [State.line, pushNotice_lines]
@[simp] theorem pushNotice_slot (m : SlotNo) : (pushNotice b s).slot m = s.slot m := by simp only [State.slot, pushNotice_slots]
@[simp] theorem pushNotice_localTime : (pushNotice b s).localTime = s.localTime := by simp only [State.localTime, pushNotice_timebase]
@[simp] theorem pushNotice_center (m : CenterId) : (pushNotice b s).center m = s.center m := by cases m <;> simp only [State.center, pushNotice_center0, pushNotice_center1]

end

section
variable (s : State) (c : CenterId) (a : Answer)

@[simp] theorem placeAnswer_pending : (placeAnswer c a s).pending = s.pending := by unfold placeAnswer; split <;> simp
@[simp] theorem placeAnswer_elapsed : (placeAnswer c a s).elapsed = s.elapsed := by unfold placeAnswer; split <;> simp
@[simp] theorem placeAnswer_quietA : (placeAnswer c a s).quietA = s.quietA := by unfold placeAnswer; split <;> simp
@[simp] theorem placeAnswer_quietB : (placeAnswer c a s).quietB = s.quietB := by unfold placeAnswer; split <;> simp
@[simp] theorem placeAnswer_timebase : (placeAnswer c a s).timebase = s.timebase := by unfold placeAnswer; split <;> simp
@[simp] theorem placeAnswer_globals : (placeAnswer c a s).globals = s.globals := by unfold placeAnswer; split <;> simp
@[simp] theorem placeAnswer_unitNumber : (placeAnswer c a s).unitNumber = s.unitNumber := by unfold placeAnswer; split <;> simp
@[simp] theorem placeAnswer_stations : (placeAnswer c a s).stations = s.stations := by unfold placeAnswer; split <;> simp
@[simp] theorem placeAnswer_codeMap : (placeAnswer c a s).codeMap = s.codeMap := by unfold placeAnswer; split <;> simp
@[simp] theorem placeAnswer_latencyEnd : (placeAnswer c a s).latencyEnd = s.latencyEnd := by unfold placeAnswer; split <;> simp
@[simp] theorem placeAnswer_streams : (placeAnswer c a s).streams = s.streams := by unfold placeAnswer; split <;> simp
@[simp] theorem placeAnswer_plan : (placeAnswer c a s).plan = s.plan := by unfold placeAnswer; split <;> simp
@[simp] theorem placeAnswer_timeline : (placeAnswer c a s).timeline = s.timeline := by unfold placeAnswer; split <;> simp
@[simp] theorem placeAnswer_freeSlots : (placeAnswer c a s).freeSlots = s.freeSlots := by unfold placeAnswer; split <;> simp
@[simp] theorem placeAnswer_forcedCloses : (placeAnswer c a s).forcedCloses = s.forcedCloses := by unfold placeAnswer; split <;> simp
@[simp] theorem placeAnswer_storeDiscards : (placeAnswer c a s).storeDiscards = s.storeDiscards := by unfold placeAnswer; split <;> simp
@[simp] theorem placeAnswer_notices : (placeAnswer c a s).notices = s.notices := by unfold placeAnswer; split <;> simp
@[simp] theorem placeAnswer_lines : (placeAnswer c a s).lines = s.lines := by unfold placeAnswer; split <;> simp
@[simp] theorem placeAnswer_passThrough : (placeAnswer c a s).passThrough = s.passThrough := by unfold placeAnswer; split <;> simp
@[simp] theorem placeAnswer_pointer : (placeAnswer c a s).pointer = s.pointer := by unfold placeAnswer; split <;> simp
@[simp] theorem placeAnswer_inputQueue : (placeAnswer c a s).inputQueue = s.inputQueue := by unfold placeAnswer; split <;> simp
@[simp] theorem placeAnswer_slots : (placeAnswer c a s).slots = s.slots := by unfold placeAnswer; split <;> simp
@[simp] theorem placeAnswer_station (m : StationNo) : (placeAnswer c a s).station m = s.station m := by simp only [State.station, placeAnswer_stations]
@[simp] theorem placeAnswer_stream (m : StreamNo) : (placeAnswer c a s).stream m = s.stream m := by simp only [State.stream, placeAnswer_streams]
@[simp] theorem placeAnswer_line (m : LineId) : (placeAnswer c a s).line m = s.line m := by simp only [State.line, placeAnswer_lines]
@[simp] theorem placeAnswer_slot (m : SlotNo) : (placeAnswer c a s).slot m = s.slot m := by simp only [State.slot, placeAnswer_slots]
@[simp] theorem placeAnswer_localTime : (placeAnswer c a s).localTime = s.localTime := by simp only [State.localTime, placeAnswer_timebase]

end

section
variable (s : State) (r : Request) (x : Result) (p : List Byte)

@[simp] theorem answerRequest_pending : (answerRequest r x p s).pending = s.pending := by simp [answerRequest]
@[simp] theorem answerRequest_elapsed : (answerRequest r x p s).elapsed = s.elapsed := by simp [answerRequest]
@[simp] theorem answerRequest_quietA : (answerRequest r x p s).quietA = s.quietA := by simp [answerRequest]
@[simp] theorem answerRequest_quietB : (answerRequest r x p s).quietB = s.quietB := by simp [answerRequest]
@[simp] theorem answerRequest_timebase : (answerRequest r x p s).timebase = s.timebase := by simp [answerRequest]
@[simp] theorem answerRequest_globals : (answerRequest r x p s).globals = s.globals := by simp [answerRequest]
@[simp] theorem answerRequest_unitNumber : (answerRequest r x p s).unitNumber = s.unitNumber := by simp [answerRequest]
@[simp] theorem answerRequest_stations : (answerRequest r x p s).stations = s.stations := by simp [answerRequest]
@[simp] theorem answerRequest_codeMap : (answerRequest r x p s).codeMap = s.codeMap := by simp [answerRequest]
@[simp] theorem answerRequest_latencyEnd : (answerRequest r x p s).latencyEnd = s.latencyEnd := by simp [answerRequest]
@[simp] theorem answerRequest_streams : (answerRequest r x p s).streams = s.streams := by simp [answerRequest]
@[simp] theorem answerRequest_plan : (answerRequest r x p s).plan = s.plan := by simp [answerRequest]
@[simp] theorem answerRequest_timeline : (answerRequest r x p s).timeline = s.timeline := by simp [answerRequest]
@[simp] theorem answerRequest_freeSlots : (answerRequest r x p s).freeSlots = s.freeSlots := by simp [answerRequest]
@[simp] theorem answerRequest_forcedCloses : (answerRequest r x p s).forcedCloses = s.forcedCloses := by simp [answerRequest]
@[simp] theorem answerRequest_storeDiscards : (answerRequest r x p s).storeDiscards = s.storeDiscards := by simp [answerRequest]
@[simp] theorem answerRequest_notices : (answerRequest r x p s).notices = s.notices := by simp [answerRequest]
@[simp] theorem answerRequest_lines : (answerRequest r x p s).lines = s.lines := by simp [answerRequest]
@[simp] theorem answerRequest_passThrough : (answerRequest r x p s).passThrough = s.passThrough := by simp [answerRequest]
@[simp] theorem answerRequest_pointer : (answerRequest r x p s).pointer = s.pointer := by simp [answerRequest]
@[simp] theorem answerRequest_inputQueue : (answerRequest r x p s).inputQueue = s.inputQueue := by simp [answerRequest]
@[simp] theorem answerRequest_slots : (answerRequest r x p s).slots = s.slots := by simp [answerRequest]
@[simp] theorem answerRequest_station (m : StationNo) : (answerRequest r x p s).station m = s.station m := by simp only [State.station, answerRequest_stations]
@[simp] theorem answerRequest_stream (m : StreamNo) : (answerRequest r x p s).stream m = s.stream m := by simp only [State.stream, answerRequest_streams]
@[simp] theorem answerRequest_line (m : LineId) : (answerRequest r x p s).line m = s.line m := by simp only [State.line, answerRequest_lines]
@[simp] theorem answerRequest_slot (m : SlotNo) : (answerRequest r x p s).slot m = s.slot m := by simp only [State.slot, answerRequest_slots]
@[simp] theorem answerRequest_localTime : (answerRequest r x p s).localTime = s.localTime := by simp only [State.localTime, answerRequest_timebase]

end

section
variable (s : State) (r : Request) (x : Result)

@[simp] theorem refuse_pending : (refuse r x s).pending = s.pending := by simp [refuse]
@[simp] theorem refuse_elapsed : (refuse r x s).elapsed = s.elapsed := by simp [refuse]
@[simp] theorem refuse_quietA : (refuse r x s).quietA = s.quietA := by simp [refuse]
@[simp] theorem refuse_quietB : (refuse r x s).quietB = s.quietB := by simp [refuse]
@[simp] theorem refuse_timebase : (refuse r x s).timebase = s.timebase := by simp [refuse]
@[simp] theorem refuse_globals : (refuse r x s).globals = s.globals := by simp [refuse]
@[simp] theorem refuse_unitNumber : (refuse r x s).unitNumber = s.unitNumber := by simp [refuse]
@[simp] theorem refuse_stations : (refuse r x s).stations = s.stations := by simp [refuse]
@[simp] theorem refuse_codeMap : (refuse r x s).codeMap = s.codeMap := by simp [refuse]
@[simp] theorem refuse_latencyEnd : (refuse r x s).latencyEnd = s.latencyEnd := by simp [refuse]
@[simp] theorem refuse_streams : (refuse r x s).streams = s.streams := by simp [refuse]
@[simp] theorem refuse_plan : (refuse r x s).plan = s.plan := by simp [refuse]
@[simp] theorem refuse_timeline : (refuse r x s).timeline = s.timeline := by simp [refuse]
@[simp] theorem refuse_freeSlots : (refuse r x s).freeSlots = s.freeSlots := by simp [refuse]
@[simp] theorem refuse_forcedCloses : (refuse r x s).forcedCloses = s.forcedCloses := by simp [refuse]
@[simp] theorem refuse_storeDiscards : (refuse r x s).storeDiscards = s.storeDiscards := by simp [refuse]
@[simp] theorem refuse_notices : (refuse r x s).notices = s.notices := by simp [refuse]
@[simp] theorem refuse_lines : (refuse r x s).lines = s.lines := by simp [refuse]
@[simp] theorem refuse_passThrough : (refuse r x s).passThrough = s.passThrough := by simp [refuse]
@[simp] theorem refuse_pointer : (refuse r x s).pointer = s.pointer := by simp [refuse]
@[simp] theorem refuse_inputQueue : (refuse r x s).inputQueue = s.inputQueue := by simp [refuse]
@[simp] theorem refuse_slots : (refuse r x s).slots = s.slots := by simp [refuse]
@[simp] theorem refuse_station (m : StationNo) : (refuse r x s).station m = s.station m := by simp only [State.station, refuse_stations]
@[simp] theorem refuse_stream (m : StreamNo) : (refuse r x s).stream m = s.stream m := by simp only [State.stream, refuse_streams]
@[simp] theorem refuse_line (m : LineId) : (refuse r x s).line m = s.line m := by simp only [State.line, refuse_lines]
@[simp] theorem refuse_slot (m : SlotNo) : (refuse r x s).slot m = s.slot m := by simp only [State.slot, refuse_slots]
@[simp] theorem refuse_localTime : (refuse r x s).localTime = s.localTime := by simp only [State.localTime, refuse_timebase]

end

section
variable (s : State) (d : SlotNo) (r : Request) (op : DeferredOp)

@[simp] theorem holdAnswer_pending : (holdAnswer d r op s).pending = s.pending := by rfl
@[simp] theorem holdAnswer_elapsed : (holdAnswer d r op s).elapsed = s.elapsed := by rfl
@[simp] theorem holdAnswer_quietA : (holdAnswer d r op s).quietA = s.quietA := by rfl
@[simp] theorem holdAnswer_quietB : (holdAnswer d r op s).quietB = s.quietB := by rfl
@[simp] theorem holdAnswer_timebase : (holdAnswer d r op s).timebase = s.timebase := by rfl
@[simp] theorem holdAnswer_globals : (holdAnswer d r op s).globals = s.globals := by rfl
@[simp] theorem holdAnswer_unitNumber : (holdAnswer d r op s).unitNumber = s.unitNumber := by rfl
@[simp] theorem holdAnswer_stations : (holdAnswer d r op s).stations = s.stations := by rfl
@[simp] theorem holdAnswer_codeMap : (holdAnswer d r op s).codeMap = s.codeMap := by rfl
@[simp] theorem holdAnswer_latencyEnd : (holdAnswer d r op s).latencyEnd = s.latencyEnd := by rfl
@[simp] theorem holdAnswer_streams : (holdAnswer d r op s).streams = s.streams := by rfl
@[simp] theorem holdAnswer_plan : (holdAnswer d r op s).plan = s.plan := by rfl
@[simp] theorem holdAnswer_timeline : (holdAnswer d r op s).timeline = s.timeline := by rfl
@[simp] theorem holdAnswer_freeSlots : (holdAnswer d r op s).freeSlots = s.freeSlots := by rfl
@[simp] theorem holdAnswer_forcedCloses : (holdAnswer d r op s).forcedCloses = s.forcedCloses := by rfl
@[simp] theorem holdAnswer_storeDiscards : (holdAnswer d r op s).storeDiscards = s.storeDiscards := by rfl
@[simp] theorem holdAnswer_notices : (holdAnswer d r op s).notices = s.notices := by rfl
@[simp] theorem holdAnswer_lines : (holdAnswer d r op s).lines = s.lines := by rfl
@[simp] theorem holdAnswer_center0 : (holdAnswer d r op s).center0 = s.center0 := by rfl
@[simp] theorem holdAnswer_center1 : (holdAnswer d r op s).center1 = s.center1 := by rfl
@[simp] theorem holdAnswer_passThrough : (holdAnswer d r op s).passThrough = s.passThrough := by rfl
@[simp] theorem holdAnswer_pointer : (holdAnswer d r op s).pointer = s.pointer := by rfl
@[simp] theorem holdAnswer_inputQueue : (holdAnswer d r op s).inputQueue = s.inputQueue := by rfl
@[simp] theorem holdAnswer_station (m : StationNo) : (holdAnswer d r op s).station m = s.station m := by simp only [State.station, holdAnswer_stations]
@[simp] theorem holdAnswer_stream (m : StreamNo) : (holdAnswer d r op s).stream m = s.stream m := by simp only [State.stream, holdAnswer_streams]
@[simp] theorem holdAnswer_line (m : LineId) : (holdAnswer d r op s).line m = s.line m := by simp only [State.line, holdAnswer_lines]
@[simp] theorem holdAnswer_localTime : (holdAnswer d r op s).localTime = s.localTime := by simp only [State.localTime, holdAnswer_timebase]
@[simp] theorem holdAnswer_center (m : CenterId) : (holdAnswer d r op s).center m = s.center m := by cases m <;> simp only [State.center, holdAnswer_center0, holdAnswer_center1]

end

section
variable (s : State) (d : SlotNo) (op : DeferredOp)

@[simp] theorem forgetSlot_pending : (forgetSlot d op s).pending = s.pending := by unfold forgetSlot; split <;> simp
@[simp] theorem forgetSlot_elapsed : (forgetSlot d op s).elapsed = s.elapsed := by unfold forgetSlot; split <;> simp
@[simp] theorem forgetSlot_quietA : (forgetSlot d op s).quietA = s.quietA := by unfold forgetSlot; split <;> simp
@[simp] theorem forgetSlot_quietB : (forgetSlot d op s).quietB = s.quietB := by unfold forgetSlot; split <;> simp
@[simp] theorem forgetSlot_timebase : (forgetSlot d op s).timebase = s.timebase := by unfold forgetSlot; split <;> simp
@[simp] theorem forgetSlot_globals : (forgetSlot d op s).globals = s.globals := by unfold forgetSlot; split <;> simp
@[simp] theorem forgetSlot_unitNumber : (forgetSlot d op s).unitNumber = s.unitNumber := by unfold forgetSlot; split <;> simp
@[simp] theorem forgetSlot_codeMap : (forgetSlot d op s).codeMap = s.codeMap := by unfold forgetSlot; split <;> simp
@[simp] theorem forgetSlot_latencyEnd : (forgetSlot d op s).latencyEnd = s.latencyEnd := by unfold forgetSlot; split <;> simp
@[simp] theorem forgetSlot_plan : (forgetSlot d op s).plan = s.plan := by unfold forgetSlot; split <;> simp
@[simp] theorem forgetSlot_timeline : (forgetSlot d op s).timeline = s.timeline := by unfold forgetSlot; split <;> simp
@[simp] theorem forgetSlot_freeSlots : (forgetSlot d op s).freeSlots = s.freeSlots := by unfold forgetSlot; split <;> simp
@[simp] theorem forgetSlot_forcedCloses : (forgetSlot d op s).forcedCloses = s.forcedCloses := by unfold forgetSlot; split <;> simp
@[simp] theorem forgetSlot_storeDiscards : (forgetSlot d op s).storeDiscards = s.storeDiscards := by unfold forgetSlot; split <;> simp
@[simp] theorem forgetSlot_notices : (forgetSlot d op s).notices = s.notices := by unfold forgetSlot; split <;> simp
@[simp] theorem forgetSlot_lines : (forgetSlot d op s).lines = s.lines := by unfold forgetSlot; split <;> simp
@[simp] theorem forgetSlot_center0 : (forgetSlot d op s).center0 = s.center0 := by unfold forgetSlot; split <;> simp
@[simp] theorem forgetSlot_center1 : (forgetSlot d op s).center1 = s.center1 := by unfold forgetSlot; split <;> simp
@[simp] theorem forgetSlot_passThrough : (forgetSlot d op s).passThrough = s.passThrough := by unfold forgetSlot; split <;> simp
@[simp] theorem forgetSlot_pointer : (forgetSlot d op s).pointer = s.pointer := by unfold forgetSlot; split <;> simp
@[simp] theorem forgetSlot_inputQueue : (forgetSlot d op s).inputQueue = s.inputQueue := by unfold forgetSlot; split <;> simp
@[simp] theorem forgetSlot_slots : (forgetSlot d op s).slots = s.slots := by unfold forgetSlot; split <;> simp
@[simp] theorem forgetSlot_line (m : LineId) : (forgetSlot d op s).line m = s.line m := by simp only [State.line, forgetSlot_lines]
@[simp] theorem forgetSlot_slot (m : SlotNo) : (forgetSlot d op s).slot m = s.slot m := by simp only [State.slot, forgetSlot_slots]
@[simp] theorem forgetSlot_localTime : (forgetSlot d op s).localTime = s.localTime := by simp only [State.localTime, forgetSlot_timebase]
@[simp] theorem forgetSlot_center (m : CenterId) : (forgetSlot d op s).center m = s.center m := by cases m <;> simp only [State.center, forgetSlot_center0, forgetSlot_center1]

end

section
variable (s : State) (d : SlotNo) (x : Result) (p : List Byte)

@[simp] theorem endSlot_pending : (endSlot d x p s).pending = s.pending := by unfold endSlot; split <;> simp
@[simp] theorem endSlot_elapsed : (endSlot d x p s).elapsed = s.elapsed := by unfold endSlot; split <;> simp
@[simp] theorem endSlot_quietA : (endSlot d x p s).quietA = s.quietA := by unfold endSlot; split <;> simp
@[simp] theorem endSlot_quietB : (endSlot d x p s).quietB = s.quietB := by unfold endSlot; split <;> simp
@[simp] theorem endSlot_timebase : (endSlot d x p s).timebase = s.timebase := by unfold endSlot; split <;> simp
@[simp] theorem endSlot_globals : (endSlot d x p s).globals = s.globals := by unfold endSlot; split <;> simp
@[simp] theorem endSlot_unitNumber : (endSlot d x p s).unitNumber = s.unitNumber := by unfold endSlot; split <;> simp
@[simp] theorem endSlot_codeMap : (endSlot d x p s).codeMap = s.codeMap := by unfold endSlot; split <;> simp
@[simp] theorem endSlot_latencyEnd : (endSlot d x p s).latencyEnd = s.latencyEnd := by unfold endSlot; split <;> simp
@[simp] theorem endSlot_plan : (endSlot d x p s).plan = s.plan := by unfold endSlot; split <;> simp
@[simp] theorem endSlot_timeline : (endSlot d x p s).timeline = s.timeline := by unfold endSlot; split <;> simp
@[simp] theorem endSlot_freeSlots : (endSlot d x p s).freeSlots = s.freeSlots := by unfold endSlot; split <;> simp
@[simp] theorem endSlot_forcedCloses : (endSlot d x p s).forcedCloses = s.forcedCloses := by unfold endSlot; split <;> simp
@[simp] theorem endSlot_storeDiscards : (endSlot d x p s).storeDiscards = s.storeDiscards := by unfold endSlot; split <;> simp
@[simp] theorem endSlot_notices : (endSlot d x p s).notices = s.notices := by unfold endSlot; split <;> simp
@[simp] theorem endSlot_lines : (endSlot d x p s).lines = s.lines := by unfold endSlot; split <;> simp
@[simp] theorem endSlot_passThrough : (endSlot d x p s).passThrough = s.passThrough := by unfold endSlot; split <;> simp
@[simp] theorem endSlot_pointer : (endSlot d x p s).pointer = s.pointer := by unfold endSlot; split <;> simp
@[simp] theorem endSlot_inputQueue : (endSlot d x p s).inputQueue = s.inputQueue := by unfold endSlot; split <;> simp
@[simp] theorem endSlot_line (m : LineId) : (endSlot d x p s).line m = s.line m := by simp only [State.line, endSlot_lines]
@[simp] theorem endSlot_localTime : (endSlot d x p s).localTime = s.localTime := by simp only [State.localTime, endSlot_timebase]

end

section
variable (s : State) (n : StationNo) (c : Condition) (l : Latch)

@[simp] theorem putLatch_pending : (putLatch n c l s).pending = s.pending := by simp [putLatch]
@[simp] theorem putLatch_elapsed : (putLatch n c l s).elapsed = s.elapsed := by simp [putLatch]
@[simp] theorem putLatch_quietA : (putLatch n c l s).quietA = s.quietA := by simp [putLatch]
@[simp] theorem putLatch_quietB : (putLatch n c l s).quietB = s.quietB := by simp [putLatch]
@[simp] theorem putLatch_timebase : (putLatch n c l s).timebase = s.timebase := by simp [putLatch]
@[simp] theorem putLatch_globals : (putLatch n c l s).globals = s.globals := by simp [putLatch]
@[simp] theorem putLatch_unitNumber : (putLatch n c l s).unitNumber = s.unitNumber := by simp [putLatch]
@[simp] theorem putLatch_codeMap : (putLatch n c l s).codeMap = s.codeMap := by simp [putLatch]
@[simp] theorem putLatch_latencyEnd : (putLatch n c l s).latencyEnd = s.latencyEnd := by simp [putLatch]
@[simp] theorem putLatch_streams : (putLatch n c l s).streams = s.streams := by simp [putLatch]
@[simp] theorem putLatch_plan : (putLatch n c l s).plan = s.plan := by simp [putLatch]
@[simp] theorem putLatch_timeline : (putLatch n c l s).timeline = s.timeline := by simp [putLatch]
@[simp] theorem putLatch_freeSlots : (putLatch n c l s).freeSlots = s.freeSlots := by simp [putLatch]
@[simp] theorem putLatch_forcedCloses : (putLatch n c l s).forcedCloses = s.forcedCloses := by simp [putLatch]
@[simp] theorem putLatch_storeDiscards : (putLatch n c l s).storeDiscards = s.storeDiscards := by simp [putLatch]
@[simp] theorem putLatch_notices : (putLatch n c l s).notices = s.notices := by simp [putLatch]
@[simp] theorem putLatch_lines : (putLatch n c l s).lines = s.lines := by simp [putLatch]
@[simp] theorem putLatch_center0 : (putLatch n c l s).center0 = s.center0 := by simp [putLatch]
@[simp] theorem putLatch_center1 : (putLatch n c l s).center1 = s.center1 := by simp [putLatch]
@[simp] theorem putLatch_passThrough : (putLatch n c l s).passThrough = s.passThrough := by simp [putLatch]
@[simp] theorem putLatch_pointer : (putLatch n c l s).pointer = s.pointer := by simp [putLatch]
@[simp] theorem putLatch_inputQueue : (putLatch n c l s).inputQueue = s.inputQueue := by simp [putLatch]
@[simp] theorem putLatch_slots : (putLatch n c l s).slots = s.slots := by simp [putLatch]
@[simp] theorem putLatch_stream (m : StreamNo) : (putLatch n c l s).stream m = s.stream m := by simp only [State.stream, putLatch_streams]
@[simp] theorem putLatch_line (m : LineId) : (putLatch n c l s).line m = s.line m := by simp only [State.line, putLatch_lines]
@[simp] theorem putLatch_slot (m : SlotNo) : (putLatch n c l s).slot m = s.slot m := by simp only [State.slot, putLatch_slots]
@[simp] theorem putLatch_localTime : (putLatch n c l s).localTime = s.localTime := by simp only [State.localTime, putLatch_timebase]
@[simp] theorem putLatch_center (m : CenterId) : (putLatch n c l s).center m = s.center m := by cases m <;> simp only [State.center, putLatch_center0, putLatch_center1]

end

section
variable (s : State) (n : StationNo) (c : Condition) (g : ConditionOrigin)

@[simp] theorem setLatch_pending : (setLatch n c g s).pending = s.pending := by simp [setLatch]
@[simp] theorem setLatch_elapsed : (setLatch n c g s).elapsed = s.elapsed := by simp [setLatch]
@[simp] theorem setLatch_quietA : (setLatch n c g s).quietA = s.quietA := by simp [setLatch]
@[simp] theorem setLatch_quietB : (setLatch n c g s).quietB = s.quietB := by simp [setLatch]
@[simp] theorem setLatch_timebase : (setLatch n c g s).timebase = s.timebase := by simp [setLatch]
@[simp] theorem setLatch_globals : (setLatch n c g s).globals = s.globals := by simp [setLatch]
@[simp] theorem setLatch_unitNumber : (setLatch n c g s).unitNumber = s.unitNumber := by simp [setLatch]
@[simp] theorem setLatch_codeMap : (setLatch n c g s).codeMap = s.codeMap := by simp [setLatch]
@[simp] theorem setLatch_latencyEnd : (setLatch n c g s).latencyEnd = s.latencyEnd := by simp [setLatch]
@[simp] theorem setLatch_streams : (setLatch n c g s).streams = s.streams := by simp [setLatch]
@[simp] theorem setLatch_plan : (setLatch n c g s).plan = s.plan := by simp [setLatch]
@[simp] theorem setLatch_timeline : (setLatch n c g s).timeline = s.timeline := by simp [setLatch]
@[simp] theorem setLatch_freeSlots : (setLatch n c g s).freeSlots = s.freeSlots := by simp [setLatch]
@[simp] theorem setLatch_forcedCloses : (setLatch n c g s).forcedCloses = s.forcedCloses := by simp [setLatch]
@[simp] theorem setLatch_storeDiscards : (setLatch n c g s).storeDiscards = s.storeDiscards := by simp [setLatch]
@[simp] theorem setLatch_lines : (setLatch n c g s).lines = s.lines := by simp [setLatch]
@[simp] theorem setLatch_center0 : (setLatch n c g s).center0 = s.center0 := by simp [setLatch]
@[simp] theorem setLatch_center1 : (setLatch n c g s).center1 = s.center1 := by simp [setLatch]
@[simp] theorem setLatch_passThrough : (setLatch n c g s).passThrough = s.passThrough := by simp [setLatch]
@[simp] theorem setLatch_pointer : (setLatch n c g s).pointer = s.pointer := by simp [setLatch]
@[simp] theorem setLatch_inputQueue : (setLatch n c g s).inputQueue = s.inputQueue := by simp [setLatch]
@[simp] theorem setLatch_slots : (setLatch n c g s).slots = s.slots := by simp [setLatch]
@[simp] theorem setLatch_stream (m : StreamNo) : (setLatch n c g s).stream m = s.stream m := by simp only [State.stream, setLatch_streams]
@[simp] theorem setLatch_line (m : LineId) : (setLatch n c g s).line m = s.line m := by simp only [State.line, setLatch_lines]
@[simp] theorem setLatch_slot (m : SlotNo) : (setLatch n c g s).slot m = s.slot m := by simp only [State.slot, setLatch_slots]
@[simp] theorem setLatch_localTime : (setLatch n c g s).localTime = s.localTime := by simp only [State.localTime, setLatch_timebase]
@[simp] theorem setLatch_center (m : CenterId) : (setLatch n c g s).center m = s.center m := by cases m <;> simp only [State.center, setLatch_center0, setLatch_center1]

end

section
variable (s : State) (n : StationNo) (c : Condition)

@[simp] theorem risingEdge_pending : (risingEdge n c s).pending = s.pending := by unfold risingEdge; (repeat' split) <;> simp
@[simp] theorem risingEdge_elapsed : (risingEdge n c s).elapsed = s.elapsed := by unfold risingEdge; (repeat' split) <;> simp
@[simp] theorem risingEdge_quietA : (risingEdge n c s).quietA = s.quietA := by unfold risingEdge; (repeat' split) <;> simp
@[simp] theorem risingEdge_quietB : (risingEdge n c s).quietB = s.quietB := by unfold risingEdge; (repeat' split) <;> simp
@[simp] theorem risingEdge_timebase : (risingEdge n c s).timebase = s.timebase := by unfold risingEdge; (repeat' split) <;> simp
@[simp] theorem risingEdge_globals : (risingEdge n c s).globals = s.globals := by unfold risingEdge; (repeat' split) <;> simp
@[simp] theorem risingEdge_unitNumber : (risingEdge n c s).unitNumber = s.unitNumber := by unfold risingEdge; (repeat' split) <;> simp
@[simp] theorem risingEdge_codeMap : (risingEdge n c s).codeMap = s.codeMap := by unfold risingEdge; (repeat' split) <;> simp
@[simp] theorem risingEdge_latencyEnd : (risingEdge n c s).latencyEnd = s.latencyEnd := by unfold risingEdge; (repeat' split) <;> simp
@[simp] theorem risingEdge_streams : (risingEdge n c s).streams = s.streams := by unfold risingEdge; (repeat' split) <;> simp
@[simp] theorem risingEdge_plan : (risingEdge n c s).plan = s.plan := by unfold risingEdge; (repeat' split) <;> simp
@[simp] theorem risingEdge_timeline : (risingEdge n c s).timeline = s.timeline := by unfold risingEdge; (repeat' split) <;> simp
@[simp] theorem risingEdge_freeSlots : (risingEdge n c s).freeSlots = s.freeSlots := by unfold risingEdge; (repeat' split) <;> simp
@[simp] theorem risingEdge_forcedCloses : (risingEdge n c s).forcedCloses = s.forcedCloses := by unfold risingEdge; (repeat' split) <;> simp
@[simp] theorem risingEdge_storeDiscards : (risingEdge n c s).storeDiscards = s.storeDiscards := by unfold risingEdge; (repeat' split) <;> simp
@[simp] theorem risingEdge_lines : (risingEdge n c s).lines = s.lines := by unfold risingEdge; (repeat' split) <;> simp
@[simp] theorem risingEdge_center0 : (risingEdge n c s).center0 = s.center0 := by unfold risingEdge; (repeat' split) <;> simp
@[simp] theorem risingEdge_center1 : (risingEdge n c s).center1 = s.center1 := by unfold risingEdge; (repeat' split) <;> simp
@[simp] theorem risingEdge_passThrough : (risingEdge n c s).passThrough = s.passThrough := by unfold risingEdge; (repeat' split) <;> simp
@[simp] theorem risingEdge_pointer : (risingEdge n c s).pointer = s.pointer := by unfold risingEdge; (repeat' split) <;> simp
@[simp] theorem risingEdge_inputQueue : (risingEdge n c s).inputQueue = s.inputQueue := by unfold risingEdge; (repeat' split) <;> simp
@[simp] theorem risingEdge_slots : (risingEdge n c s).slots = s.slots := by unfold risingEdge; (repeat' split) <;> simp
@[simp] theorem risingEdge_stream (m : StreamNo) : (risingEdge n c s).stream m = s.stream m := by simp only [State.stream, risingEdge_streams]
@[simp] theorem risingEdge_line (m : LineId) : (risingEdge n c s).line m = s.line m := by simp only [State.line, risingEdge_lines]
@[simp] theorem risingEdge_slot (m : SlotNo) : (risingEdge n c s).slot m = s.slot m := by simp only [State.slot, risingEdge_slots]
@[simp] theorem risingEdge_localTime : (risingEdge n c s).localTime = s.localTime := by simp only [State.localTime, risingEdge_timebase]
@[simp] theorem risingEdge_center (m : CenterId) : (risingEdge n c s).center m = s.center m := by cases m <;> simp only [State.center, risingEdge_center0, risingEdge_center1]

end

section
variable (s : State) (l : LineId) (code : Nat)

@[simp] theorem unknownCodeEdge_pending : (unknownCodeEdge l code s).pending = s.pending := by unfold unknownCodeEdge; split <;> simp
@[simp] theorem unknownCodeEdge_elapsed : (unknownCodeEdge l code s).elapsed = s.elapsed := by unfold unknownCodeEdge; split <;> simp
@[simp] theorem unknownCodeEdge_quietA : (unknownCodeEdge l code s).quietA = s.quietA := by unfold unknownCodeEdge; split <;> simp
@[simp] theorem unknownCodeEdge_quietB : (unknownCodeEdge l code s).quietB = s.quietB := by unfold unknownCodeEdge; split <;> simp
@[simp] theorem unknownCodeEdge_timebase : (unknownCodeEdge l code s).timebase = s.timebase := by unfold unknownCodeEdge; split <;> simp
@[simp] theorem unknownCodeEdge_globals : (unknownCodeEdge l code s).globals = s.globals := by unfold unknownCodeEdge; split <;> simp
@[simp] theorem unknownCodeEdge_unitNumber : (unknownCodeEdge l code s).unitNumber = s.unitNumber := by unfold unknownCodeEdge; split <;> simp
@[simp] theorem unknownCodeEdge_stations : (unknownCodeEdge l code s).stations = s.stations := by unfold unknownCodeEdge; split <;> simp
@[simp] theorem unknownCodeEdge_codeMap : (unknownCodeEdge l code s).codeMap = s.codeMap := by unfold unknownCodeEdge; split <;> simp
@[simp] theorem unknownCodeEdge_latencyEnd : (unknownCodeEdge l code s).latencyEnd = s.latencyEnd := by unfold unknownCodeEdge; split <;> simp
@[simp] theorem unknownCodeEdge_streams : (unknownCodeEdge l code s).streams = s.streams := by unfold unknownCodeEdge; split <;> simp
@[simp] theorem unknownCodeEdge_plan : (unknownCodeEdge l code s).plan = s.plan := by unfold unknownCodeEdge; split <;> simp
@[simp] theorem unknownCodeEdge_timeline : (unknownCodeEdge l code s).timeline = s.timeline := by unfold unknownCodeEdge; split <;> simp
@[simp] theorem unknownCodeEdge_freeSlots : (unknownCodeEdge l code s).freeSlots = s.freeSlots := by unfold unknownCodeEdge; split <;> simp
@[simp] theorem unknownCodeEdge_forcedCloses : (unknownCodeEdge l code s).forcedCloses = s.forcedCloses := by unfold unknownCodeEdge; split <;> simp
@[simp] theorem unknownCodeEdge_storeDiscards : (unknownCodeEdge l code s).storeDiscards = s.storeDiscards := by unfold unknownCodeEdge; split <;> simp
@[simp] theorem unknownCodeEdge_center0 : (unknownCodeEdge l code s).center0 = s.center0 := by unfold unknownCodeEdge; split <;> simp
@[simp] theorem unknownCodeEdge_center1 : (unknownCodeEdge l code s).center1 = s.center1 := by unfold unknownCodeEdge; split <;> simp
@[simp] theorem unknownCodeEdge_passThrough : (unknownCodeEdge l code s).passThrough = s.passThrough := by unfold unknownCodeEdge; split <;> simp
@[simp] theorem unknownCodeEdge_pointer : (unknownCodeEdge l code s).pointer = s.pointer := by unfold unknownCodeEdge; split <;> simp
@[simp] theorem unknownCodeEdge_inputQueue : (unknownCodeEdge l code s).inputQueue = s.inputQueue := by unfold unknownCodeEdge; split <;> simp
@[simp] theorem unknownCodeEdge_slots : (unknownCodeEdge l code s).slots = s.slots := by unfold unknownCodeEdge; split <;> simp
@[simp] theorem unknownCodeEdge_station (m : StationNo) : (unknownCodeEdge l code s).station m = s.station m := by simp only [State.station, unknownCodeEdge_stations]
@[simp] theorem unknownCodeEdge_stream (m : StreamNo) : (unknownCodeEdge l code s).stream m = s.stream m := by simp only [State.stream, unknownCodeEdge_streams]
@[simp] theorem unknownCodeEdge_slot (m : SlotNo) : (unknownCodeEdge l code s).slot m = s.slot m := by simp only [State.slot, unknownCodeEdge_slots]
@[simp] theorem unknownCodeEdge_localTime : (unknownCodeEdge l code s).localTime = s.localTime := by simp only [State.localTime, unknownCodeEdge_timebase]
@[simp] theorem unknownCodeEdge_center (m : CenterId) : (unknownCodeEdge l code s).center m = s.center m := by cases m <;> simp only [State.center, unknownCodeEdge_center0, unknownCodeEdge_center1]

end

section
variable (s : State) (n : StationNo) (c : Condition)

@[simp] theorem clearLatch_pending : (clearLatch n c s).pending = s.pending := by simp only [clearLatch]; split <;> simp
@[simp] theorem clearLatch_elapsed : (clearLatch n c s).elapsed = s.elapsed := by simp only [clearLatch]; split <;> simp
@[simp] theorem clearLatch_quietA : (clearLatch n c s).quietA = s.quietA := by simp only [clearLatch]; split <;> simp
@[simp] theorem clearLatch_quietB : (clearLatch n c s).quietB = s.quietB := by simp only [clearLatch]; split <;> simp
@[simp] theorem clearLatch_timebase : (clearLatch n c s).timebase = s.timebase := by simp only [clearLatch]; split <;> simp
@[simp] theorem clearLatch_globals : (clearLatch n c s).globals = s.globals := by simp only [clearLatch]; split <;> simp
@[simp] theorem clearLatch_unitNumber : (clearLatch n c s).unitNumber = s.unitNumber := by simp only [clearLatch]; split <;> simp
@[simp] theorem clearLatch_codeMap : (clearLatch n c s).codeMap = s.codeMap := by simp only [clearLatch]; split <;> simp
@[simp] theorem clearLatch_latencyEnd : (clearLatch n c s).latencyEnd = s.latencyEnd := by simp only [clearLatch]; split <;> simp
@[simp] theorem clearLatch_streams : (clearLatch n c s).streams = s.streams := by simp only [clearLatch]; split <;> simp
@[simp] theorem clearLatch_plan : (clearLatch n c s).plan = s.plan := by simp only [clearLatch]; split <;> simp
@[simp] theorem clearLatch_timeline : (clearLatch n c s).timeline = s.timeline := by simp only [clearLatch]; split <;> simp
@[simp] theorem clearLatch_freeSlots : (clearLatch n c s).freeSlots = s.freeSlots := by simp only [clearLatch]; split <;> simp
@[simp] theorem clearLatch_forcedCloses : (clearLatch n c s).forcedCloses = s.forcedCloses := by simp only [clearLatch]; split <;> simp
@[simp] theorem clearLatch_storeDiscards : (clearLatch n c s).storeDiscards = s.storeDiscards := by simp only [clearLatch]; split <;> simp
@[simp] theorem clearLatch_lines : (clearLatch n c s).lines = s.lines := by simp only [clearLatch]; split <;> simp
@[simp] theorem clearLatch_center0 : (clearLatch n c s).center0 = s.center0 := by simp only [clearLatch]; split <;> simp
@[simp] theorem clearLatch_center1 : (clearLatch n c s).center1 = s.center1 := by simp only [clearLatch]; split <;> simp
@[simp] theorem clearLatch_passThrough : (clearLatch n c s).passThrough = s.passThrough := by simp only [clearLatch]; split <;> simp
@[simp] theorem clearLatch_pointer : (clearLatch n c s).pointer = s.pointer := by simp only [clearLatch]; split <;> simp
@[simp] theorem clearLatch_inputQueue : (clearLatch n c s).inputQueue = s.inputQueue := by simp only [clearLatch]; split <;> simp
@[simp] theorem clearLatch_slots : (clearLatch n c s).slots = s.slots := by simp only [clearLatch]; split <;> simp
@[simp] theorem clearLatch_stream (m : StreamNo) : (clearLatch n c s).stream m = s.stream m := by simp only [State.stream, clearLatch_streams]
@[simp] theorem clearLatch_line (m : LineId) : (clearLatch n c s).line m = s.line m := by simp only [State.line, clearLatch_lines]
@[simp] theorem clearLatch_slot (m : SlotNo) : (clearLatch n c s).slot m = s.slot m := by simp only [State.slot, clearLatch_slots]
@[simp] theorem clearLatch_localTime : (clearLatch n c s).localTime = s.localTime := by simp only [State.localTime, clearLatch_timebase]
@[simp] theorem clearLatch_center (m : CenterId) : (clearLatch n c s).center m = s.center m := by cases m <;> simp only [State.center, clearLatch_center0, clearLatch_center1]

end

section
variable (s : State) (l : LineId)

@[simp] theorem clearUnknownCode_pending : (clearUnknownCode l s).pending = s.pending := by simp [clearUnknownCode]
@[simp] theorem clearUnknownCode_elapsed : (clearUnknownCode l s).elapsed = s.elapsed := by simp [clearUnknownCode]
@[simp] theorem clearUnknownCode_quietA : (clearUnknownCode l s).quietA = s.quietA := by simp [clearUnknownCode]
@[simp] theorem clearUnknownCode_quietB : (clearUnknownCode l s).quietB = s.quietB := by simp [clearUnknownCode]
@[simp] theorem clearUnknownCode_timebase : (clearUnknownCode l s).timebase = s.timebase := by simp [clearUnknownCode]
@[simp] theorem clearUnknownCode_globals : (clearUnknownCode l s).globals = s.globals := by simp [clearUnknownCode]
@[simp] theorem clearUnknownCode_unitNumber : (clearUnknownCode l s).unitNumber = s.unitNumber := by simp [clearUnknownCode]
@[simp] theorem clearUnknownCode_stations : (clearUnknownCode l s).stations = s.stations := by simp [clearUnknownCode]
@[simp] theorem clearUnknownCode_codeMap : (clearUnknownCode l s).codeMap = s.codeMap := by simp [clearUnknownCode]
@[simp] theorem clearUnknownCode_latencyEnd : (clearUnknownCode l s).latencyEnd = s.latencyEnd := by simp [clearUnknownCode]
@[simp] theorem clearUnknownCode_streams : (clearUnknownCode l s).streams = s.streams := by simp [clearUnknownCode]
@[simp] theorem clearUnknownCode_plan : (clearUnknownCode l s).plan = s.plan := by simp [clearUnknownCode]
@[simp] theorem clearUnknownCode_timeline : (clearUnknownCode l s).timeline = s.timeline := by simp [clearUnknownCode]
@[simp] theorem clearUnknownCode_freeSlots : (clearUnknownCode l s).freeSlots = s.freeSlots := by simp [clearUnknownCode]
@[simp] theorem clearUnknownCode_forcedCloses : (clearUnknownCode l s).forcedCloses = s.forcedCloses := by simp [clearUnknownCode]
@[simp] theorem clearUnknownCode_storeDiscards : (clearUnknownCode l s).storeDiscards = s.storeDiscards := by simp [clearUnknownCode]
@[simp] theorem clearUnknownCode_notices : (clearUnknownCode l s).notices = s.notices := by simp [clearUnknownCode]
@[simp] theorem clearUnknownCode_center0 : (clearUnknownCode l s).center0 = s.center0 := by simp [clearUnknownCode]
@[simp] theorem clearUnknownCode_center1 : (clearUnknownCode l s).center1 = s.center1 := by simp [clearUnknownCode]
@[simp] theorem clearUnknownCode_passThrough : (clearUnknownCode l s).passThrough = s.passThrough := by simp [clearUnknownCode]
@[simp] theorem clearUnknownCode_pointer : (clearUnknownCode l s).pointer = s.pointer := by simp [clearUnknownCode]
@[simp] theorem clearUnknownCode_inputQueue : (clearUnknownCode l s).inputQueue = s.inputQueue := by simp [clearUnknownCode]
@[simp] theorem clearUnknownCode_slots : (clearUnknownCode l s).slots = s.slots := by simp [clearUnknownCode]
@[simp] theorem clearUnknownCode_station (m : StationNo) : (clearUnknownCode l s).station m = s.station m := by simp only [State.station, clearUnknownCode_stations]
@[simp] theorem clearUnknownCode_stream (m : StreamNo) : (clearUnknownCode l s).stream m = s.stream m := by simp only [State.stream, clearUnknownCode_streams]
@[simp] theorem clearUnknownCode_slot (m : SlotNo) : (clearUnknownCode l s).slot m = s.slot m := by simp only [State.slot, clearUnknownCode_slots]
@[simp] theorem clearUnknownCode_localTime : (clearUnknownCode l s).localTime = s.localTime := by simp only [State.localTime, clearUnknownCode_timebase]
@[simp] theorem clearUnknownCode_center (m : CenterId) : (clearUnknownCode l s).center m = s.center m := by cases m <;> simp only [State.center, clearUnknownCode_center0, clearUnknownCode_center1]

end

section
variable (s : State) (q : Notice)

@[simp] theorem departNotice_pending : (departNotice q s).pending = s.pending := by unfold departNotice; (repeat' split) <;> simp
@[simp] theorem departNotice_elapsed : (departNotice q s).elapsed = s.elapsed := by unfold departNotice; (repeat' split) <;> simp
@[simp] theorem departNotice_quietA : (departNotice q s).quietA = s.quietA := by unfold departNotice; (repeat' split) <;> simp
@[simp] theorem departNotice_quietB : (departNotice q s).quietB = s.quietB := by unfold departNotice; (repeat' split) <;> simp
@[simp] theorem departNotice_timebase : (departNotice q s).timebase = s.timebase := by unfold departNotice; (repeat' split) <;> simp
@[simp] theorem departNotice_globals : (departNotice q s).globals = s.globals := by unfold departNotice; (repeat' split) <;> simp
@[simp] theorem departNotice_unitNumber : (departNotice q s).unitNumber = s.unitNumber := by unfold departNotice; (repeat' split) <;> simp
@[simp] theorem departNotice_codeMap : (departNotice q s).codeMap = s.codeMap := by unfold departNotice; (repeat' split) <;> simp
@[simp] theorem departNotice_latencyEnd : (departNotice q s).latencyEnd = s.latencyEnd := by unfold departNotice; (repeat' split) <;> simp
@[simp] theorem departNotice_streams : (departNotice q s).streams = s.streams := by unfold departNotice; (repeat' split) <;> simp
@[simp] theorem departNotice_plan : (departNotice q s).plan = s.plan := by unfold departNotice; (repeat' split) <;> simp
@[simp] theorem departNotice_timeline : (departNotice q s).timeline = s.timeline := by unfold departNotice; (repeat' split) <;> simp
@[simp] theorem departNotice_freeSlots : (departNotice q s).freeSlots = s.freeSlots := by unfold departNotice; (repeat' split) <;> simp
@[simp] theorem departNotice_forcedCloses : (departNotice q s).forcedCloses = s.forcedCloses := by unfold departNotice; (repeat' split) <;> simp
@[simp] theorem departNotice_storeDiscards : (departNotice q s).storeDiscards = s.storeDiscards := by unfold departNotice; (repeat' split) <;> simp
@[simp] theorem departNotice_notices : (departNotice q s).notices = s.notices := by unfold departNotice; (repeat' split) <;> simp
@[simp] theorem departNotice_center0 : (departNotice q s).center0 = s.center0 := by unfold departNotice; (repeat' split) <;> simp
@[simp] theorem departNotice_center1 : (departNotice q s).center1 = s.center1 := by unfold departNotice; (repeat' split) <;> simp
@[simp] theorem departNotice_passThrough : (departNotice q s).passThrough = s.passThrough := by unfold departNotice; (repeat' split) <;> simp
@[simp] theorem departNotice_pointer : (departNotice q s).pointer = s.pointer := by unfold departNotice; (repeat' split) <;> simp
@[simp] theorem departNotice_inputQueue : (departNotice q s).inputQueue = s.inputQueue := by unfold departNotice; (repeat' split) <;> simp
@[simp] theorem departNotice_slots : (departNotice q s).slots = s.slots := by unfold departNotice; (repeat' split) <;> simp
@[simp] theorem departNotice_stream (m : StreamNo) : (departNotice q s).stream m = s.stream m := by simp only [State.stream, departNotice_streams]
@[simp] theorem departNotice_slot (m : SlotNo) : (departNotice q s).slot m = s.slot m := by simp only [State.slot, departNotice_slots]
@[simp] theorem departNotice_localTime : (departNotice q s).localTime = s.localTime := by simp only [State.localTime, departNotice_timebase]
@[simp] theorem departNotice_center (m : CenterId) : (departNotice q s).center m = s.center m := by cases m <;> simp only [State.center, departNotice_center0, departNotice_center1]

end

section
variable (s : State) (n : StationNo) (c : CounterId)

@[simp] theorem countStation_pending : (countStation n c s).pending = s.pending := by simp only [countStation]; (repeat' split) <;> simp
@[simp] theorem countStation_elapsed : (countStation n c s).elapsed = s.elapsed := by simp only [countStation]; (repeat' split) <;> simp
@[simp] theorem countStation_quietA : (countStation n c s).quietA = s.quietA := by simp only [countStation]; (repeat' split) <;> simp
@[simp] theorem countStation_quietB : (countStation n c s).quietB = s.quietB := by simp only [countStation]; (repeat' split) <;> simp
@[simp] theorem countStation_timebase : (countStation n c s).timebase = s.timebase := by simp only [countStation]; (repeat' split) <;> simp
@[simp] theorem countStation_globals : (countStation n c s).globals = s.globals := by simp only [countStation]; (repeat' split) <;> simp
@[simp] theorem countStation_unitNumber : (countStation n c s).unitNumber = s.unitNumber := by simp only [countStation]; (repeat' split) <;> simp
@[simp] theorem countStation_codeMap : (countStation n c s).codeMap = s.codeMap := by simp only [countStation]; (repeat' split) <;> simp
@[simp] theorem countStation_latencyEnd : (countStation n c s).latencyEnd = s.latencyEnd := by simp only [countStation]; (repeat' split) <;> simp
@[simp] theorem countStation_streams : (countStation n c s).streams = s.streams := by simp only [countStation]; (repeat' split) <;> simp
@[simp] theorem countStation_plan : (countStation n c s).plan = s.plan := by simp only [countStation]; (repeat' split) <;> simp
@[simp] theorem countStation_timeline : (countStation n c s).timeline = s.timeline := by simp only [countStation]; (repeat' split) <;> simp
@[simp] theorem countStation_freeSlots : (countStation n c s).freeSlots = s.freeSlots := by simp only [countStation]; (repeat' split) <;> simp
@[simp] theorem countStation_forcedCloses : (countStation n c s).forcedCloses = s.forcedCloses := by simp only [countStation]; (repeat' split) <;> simp
@[simp] theorem countStation_storeDiscards : (countStation n c s).storeDiscards = s.storeDiscards := by simp only [countStation]; (repeat' split) <;> simp
@[simp] theorem countStation_lines : (countStation n c s).lines = s.lines := by simp only [countStation]; (repeat' split) <;> simp
@[simp] theorem countStation_center0 : (countStation n c s).center0 = s.center0 := by simp only [countStation]; (repeat' split) <;> simp
@[simp] theorem countStation_center1 : (countStation n c s).center1 = s.center1 := by simp only [countStation]; (repeat' split) <;> simp
@[simp] theorem countStation_passThrough : (countStation n c s).passThrough = s.passThrough := by simp only [countStation]; (repeat' split) <;> simp
@[simp] theorem countStation_pointer : (countStation n c s).pointer = s.pointer := by simp only [countStation]; (repeat' split) <;> simp
@[simp] theorem countStation_inputQueue : (countStation n c s).inputQueue = s.inputQueue := by simp only [countStation]; (repeat' split) <;> simp
@[simp] theorem countStation_slots : (countStation n c s).slots = s.slots := by simp only [countStation]; (repeat' split) <;> simp
@[simp] theorem countStation_stream (m : StreamNo) : (countStation n c s).stream m = s.stream m := by simp only [State.stream, countStation_streams]
@[simp] theorem countStation_line (m : LineId) : (countStation n c s).line m = s.line m := by simp only [State.line, countStation_lines]
@[simp] theorem countStation_slot (m : SlotNo) : (countStation n c s).slot m = s.slot m := by simp only [State.slot, countStation_slots]
@[simp] theorem countStation_localTime : (countStation n c s).localTime = s.localTime := by simp only [State.localTime, countStation_timebase]
@[simp] theorem countStation_center (m : CenterId) : (countStation n c s).center m = s.center m := by cases m <;> simp only [State.center, countStation_center0, countStation_center1]

end

section
variable (s : State) (i : InputId) (x : RefInput)

@[simp] theorem setInput_pending : (setInput i x s).pending = s.pending := by cases i <;> rfl
@[simp] theorem setInput_elapsed : (setInput i x s).elapsed = s.elapsed := by cases i <;> rfl
@[simp] theorem setInput_quietA : (setInput i x s).quietA = s.quietA := by cases i <;> rfl
@[simp] theorem setInput_quietB : (setInput i x s).quietB = s.quietB := by cases i <;> rfl
@[simp] theorem setInput_globals : (setInput i x s).globals = s.globals := by cases i <;> rfl
@[simp] theorem setInput_unitNumber : (setInput i x s).unitNumber = s.unitNumber := by cases i <;> rfl
@[simp] theorem setInput_stations : (setInput i x s).stations = s.stations := by cases i <;> rfl
@[simp] theorem setInput_codeMap : (setInput i x s).codeMap = s.codeMap := by cases i <;> rfl
@[simp] theorem setInput_latencyEnd : (setInput i x s).latencyEnd = s.latencyEnd := by cases i <;> rfl
@[simp] theorem setInput_streams : (setInput i x s).streams = s.streams := by cases i <;> rfl
@[simp] theorem setInput_plan : (setInput i x s).plan = s.plan := by cases i <;> rfl
@[simp] theorem setInput_timeline : (setInput i x s).timeline = s.timeline := by cases i <;> rfl
@[simp] theorem setInput_freeSlots : (setInput i x s).freeSlots = s.freeSlots := by cases i <;> rfl
@[simp] theorem setInput_forcedCloses : (setInput i x s).forcedCloses = s.forcedCloses := by cases i <;> rfl
@[simp] theorem setInput_storeDiscards : (setInput i x s).storeDiscards = s.storeDiscards := by cases i <;> rfl
@[simp] theorem setInput_notices : (setInput i x s).notices = s.notices := by cases i <;> rfl
@[simp] theorem setInput_lines : (setInput i x s).lines = s.lines := by cases i <;> rfl
@[simp] theorem setInput_center0 : (setInput i x s).center0 = s.center0 := by cases i <;> rfl
@[simp] theorem setInput_center1 : (setInput i x s).center1 = s.center1 := by cases i <;> rfl
@[simp] theorem setInput_passThrough : (setInput i x s).passThrough = s.passThrough := by cases i <;> rfl
@[simp] theorem setInput_pointer : (setInput i x s).pointer = s.pointer := by cases i <;> rfl
@[simp] theorem setInput_inputQueue : (setInput i x s).inputQueue = s.inputQueue := by cases i <;> rfl
@[simp] theorem setInput_slots : (setInput i x s).slots = s.slots := by cases i <;> rfl
@[simp] theorem setInput_station (m : StationNo) : (setInput i x s).station m = s.station m := by simp only [State.station, setInput_stations]
@[simp] theorem setInput_stream (m : StreamNo) : (setInput i x s).stream m = s.stream m := by simp only [State.stream, setInput_streams]
@[simp] theorem setInput_line (m : LineId) : (setInput i x s).line m = s.line m := by simp only [State.line, setInput_lines]
@[simp] theorem setInput_slot (m : SlotNo) : (setInput i x s).slot m = s.slot m := by simp only [State.slot, setInput_slots]
@[simp] theorem setInput_center (m : CenterId) : (setInput i x s).center m = s.center m := by cases m <;> simp only [State.center, setInput_center0, setInput_center1]

end

section
variable (s : State) (c : CenterId) (t : Option Transmission)

@[simp] theorem setTx_pending : (setTx c t s).pending = s.pending := by simp [setTx]
@[simp] theorem setTx_elapsed : (setTx c t s).elapsed = s.elapsed := by simp [setTx]
@[simp] theorem setTx_quietA : (setTx c t s).quietA = s.quietA := by simp [setTx]
@[simp] theorem setTx_quietB : (setTx c t s).quietB = s.quietB := by simp [setTx]
@[simp] theorem setTx_timebase : (setTx c t s).timebase = s.timebase := by simp [setTx]
@[simp] theorem setTx_globals : (setTx c t s).globals = s.globals := by simp [setTx]
@[simp] theorem setTx_unitNumber : (setTx c t s).unitNumber = s.unitNumber := by simp [setTx]
@[simp] theorem setTx_stations : (setTx c t s).stations = s.stations := by simp [setTx]
@[simp] theorem setTx_codeMap : (setTx c t s).codeMap = s.codeMap := by simp [setTx]
@[simp] theorem setTx_latencyEnd : (setTx c t s).latencyEnd = s.latencyEnd := by simp [setTx]
@[simp] theorem setTx_streams : (setTx c t s).streams = s.streams := by simp [setTx]
@[simp] theorem setTx_plan : (setTx c t s).plan = s.plan := by simp [setTx]
@[simp] theorem setTx_timeline : (setTx c t s).timeline = s.timeline := by simp [setTx]
@[simp] theorem setTx_freeSlots : (setTx c t s).freeSlots = s.freeSlots := by simp [setTx]
@[simp] theorem setTx_forcedCloses : (setTx c t s).forcedCloses = s.forcedCloses := by simp [setTx]
@[simp] theorem setTx_storeDiscards : (setTx c t s).storeDiscards = s.storeDiscards := by simp [setTx]
@[simp] theorem setTx_notices : (setTx c t s).notices = s.notices := by simp [setTx]
@[simp] theorem setTx_lines : (setTx c t s).lines = s.lines := by simp [setTx]
@[simp] theorem setTx_passThrough : (setTx c t s).passThrough = s.passThrough := by simp [setTx]
@[simp] theorem setTx_pointer : (setTx c t s).pointer = s.pointer := by simp [setTx]
@[simp] theorem setTx_inputQueue : (setTx c t s).inputQueue = s.inputQueue := by simp [setTx]
@[simp] theorem setTx_slots : (setTx c t s).slots = s.slots := by simp [setTx]
@[simp] theorem setTx_station (m : StationNo) : (setTx c t s).station m = s.station m := by simp only [State.station, setTx_stations]
@[simp] theorem setTx_stream (m : StreamNo) : (setTx c t s).stream m = s.stream m := by simp only [State.stream, setTx_streams]
@[simp] theorem setTx_line (m : LineId) : (setTx c t s).line m = s.line m := by simp only [State.line, setTx_lines]
@[simp] theorem setTx_slot (m : SlotNo) : (setTx c t s).slot m = s.slot m := by simp only [State.slot, setTx_slots]
@[simp] theorem setTx_localTime : (setTx c t s).localTime = s.localTime := by simp only [State.localTime, setTx_timebase]

end

section
variable (s : State) (c : CenterId) (a : Answer) (l : List Answer)

@[simp] theorem beginAnswer_pending : (beginAnswer c a l s).pending = s.pending := by simp [beginAnswer]
@[simp] theorem beginAnswer_elapsed : (beginAnswer c a l s).elapsed = s.elapsed := by simp [beginAnswer]
@[simp] theorem beginAnswer_quietA : (beginAnswer c a l s).quietA = s.quietA := by simp [beginAnswer]
@[simp] theorem beginAnswer_quietB : (beginAnswer c a l s).quietB = s.quietB := by simp [beginAnswer]
@[simp] theorem beginAnswer_timebase : (beginAnswer c a l s).timebase = s.timebase := by simp [beginAnswer]
@[simp] theorem beginAnswer_globals : (beginAnswer c a l s).globals = s.globals := by simp [beginAnswer]
@[simp] theorem beginAnswer_unitNumber : (beginAnswer c a l s).unitNumber = s.unitNumber := by simp [beginAnswer]
@[simp] theorem beginAnswer_stations : (beginAnswer c a l s).stations = s.stations := by simp [beginAnswer]
@[simp] theorem beginAnswer_codeMap : (beginAnswer c a l s).codeMap = s.codeMap := by simp [beginAnswer]
@[simp] theorem beginAnswer_latencyEnd : (beginAnswer c a l s).latencyEnd = s.latencyEnd := by simp [beginAnswer]
@[simp] theorem beginAnswer_streams : (beginAnswer c a l s).streams = s.streams := by simp [beginAnswer]
@[simp] theorem beginAnswer_plan : (beginAnswer c a l s).plan = s.plan := by simp [beginAnswer]
@[simp] theorem beginAnswer_timeline : (beginAnswer c a l s).timeline = s.timeline := by simp [beginAnswer]
@[simp] theorem beginAnswer_freeSlots : (beginAnswer c a l s).freeSlots = s.freeSlots := by simp [beginAnswer]
@[simp] theorem beginAnswer_forcedCloses : (beginAnswer c a l s).forcedCloses = s.forcedCloses := by simp [beginAnswer]
@[simp] theorem beginAnswer_storeDiscards : (beginAnswer c a l s).storeDiscards = s.storeDiscards := by simp [beginAnswer]
@[simp] theorem beginAnswer_notices : (beginAnswer c a l s).notices = s.notices := by simp [beginAnswer]
@[simp] theorem beginAnswer_lines : (beginAnswer c a l s).lines = s.lines := by simp [beginAnswer]
@[simp] theorem beginAnswer_passThrough : (beginAnswer c a l s).passThrough = s.passThrough := by simp [beginAnswer]
@[simp] theorem beginAnswer_pointer : (beginAnswer c a l s).pointer = s.pointer := by simp [beginAnswer]
@[simp] theorem beginAnswer_inputQueue : (beginAnswer c a l s).inputQueue = s.inputQueue := by simp [beginAnswer]
@[simp] theorem beginAnswer_slots : (beginAnswer c a l s).slots = s.slots := by simp [beginAnswer]
@[simp] theorem beginAnswer_station (m : StationNo) : (beginAnswer c a l s).station m = s.station m := by simp only [State.station, beginAnswer_stations]
@[simp] theorem beginAnswer_stream (m : StreamNo) : (beginAnswer c a l s).stream m = s.stream m := by simp only [State.stream, beginAnswer_streams]
@[simp] theorem beginAnswer_line (m : LineId) : (beginAnswer c a l s).line m = s.line m := by simp only [State.line, beginAnswer_lines]
@[simp] theorem beginAnswer_slot (m : SlotNo) : (beginAnswer c a l s).slot m = s.slot m := by simp only [State.slot, beginAnswer_slots]
@[simp] theorem beginAnswer_localTime : (beginAnswer c a l s).localTime = s.localTime := by simp only [State.localTime, beginAnswer_timebase]

end

section
variable (s : State) (c : CenterId) (k : StreamNo) (a : AlignedSet) (i d : Nat)

@[simp] theorem beginFragment_pending : (beginFragment c k a i d s).pending = s.pending := by simp [beginFragment]
@[simp] theorem beginFragment_elapsed : (beginFragment c k a i d s).elapsed = s.elapsed := by simp [beginFragment]
@[simp] theorem beginFragment_quietA : (beginFragment c k a i d s).quietA = s.quietA := by simp [beginFragment]
@[simp] theorem beginFragment_quietB : (beginFragment c k a i d s).quietB = s.quietB := by simp [beginFragment]
@[simp] theorem beginFragment_timebase : (beginFragment c k a i d s).timebase = s.timebase := by simp [beginFragment]
@[simp] theorem beginFragment_globals : (beginFragment c k a i d s).globals = s.globals := by simp [beginFragment]
@[simp] theorem beginFragment_unitNumber : (beginFragment c k a i d s).unitNumber = s.unitNumber := by simp [beginFragment]
@[simp] theorem beginFragment_stations : (beginFragment c k a i d s).stations = s.stations := by simp [beginFragment]
@[simp] theorem beginFragment_codeMap : (beginFragment c k a i d s).codeMap = s.codeMap := by simp [beginFragment]
@[simp] theorem beginFragment_latencyEnd : (beginFragment c k a i d s).latencyEnd = s.latencyEnd := by simp [beginFragment]
@[simp] theorem beginFragment_streams : (beginFragment c k a i d s).streams = s.streams := by simp [beginFragment]
@[simp] theorem beginFragment_plan : (beginFragment c k a i d s).plan = s.plan := by simp [beginFragment]
@[simp] theorem beginFragment_timeline : (beginFragment c k a i d s).timeline = s.timeline := by simp [beginFragment]
@[simp] theorem beginFragment_freeSlots : (beginFragment c k a i d s).freeSlots = s.freeSlots := by simp [beginFragment]
@[simp] theorem beginFragment_forcedCloses : (beginFragment c k a i d s).forcedCloses = s.forcedCloses := by simp [beginFragment]
@[simp] theorem beginFragment_storeDiscards : (beginFragment c k a i d s).storeDiscards = s.storeDiscards := by simp [beginFragment]
@[simp] theorem beginFragment_notices : (beginFragment c k a i d s).notices = s.notices := by simp [beginFragment]
@[simp] theorem beginFragment_lines : (beginFragment c k a i d s).lines = s.lines := by simp [beginFragment]
@[simp] theorem beginFragment_passThrough : (beginFragment c k a i d s).passThrough = s.passThrough := by simp [beginFragment]
@[simp] theorem beginFragment_pointer : (beginFragment c k a i d s).pointer = s.pointer := by simp [beginFragment]
@[simp] theorem beginFragment_inputQueue : (beginFragment c k a i d s).inputQueue = s.inputQueue := by simp [beginFragment]
@[simp] theorem beginFragment_slots : (beginFragment c k a i d s).slots = s.slots := by simp [beginFragment]
@[simp] theorem beginFragment_station (m : StationNo) : (beginFragment c k a i d s).station m = s.station m := by simp only [State.station, beginFragment_stations]
@[simp] theorem beginFragment_stream (m : StreamNo) : (beginFragment c k a i d s).stream m = s.stream m := by simp only [State.stream, beginFragment_streams]
@[simp] theorem beginFragment_line (m : LineId) : (beginFragment c k a i d s).line m = s.line m := by simp only [State.line, beginFragment_lines]
@[simp] theorem beginFragment_slot (m : SlotNo) : (beginFragment c k a i d s).slot m = s.slot m := by simp only [State.slot, beginFragment_slots]
@[simp] theorem beginFragment_localTime : (beginFragment c k a i d s).localTime = s.localTime := by simp only [State.localTime, beginFragment_timebase]

end

section
variable (s : State) 

@[simp] theorem storeDiscard_pending : (storeDiscard s).pending = s.pending := by rfl
@[simp] theorem storeDiscard_elapsed : (storeDiscard s).elapsed = s.elapsed := by rfl
@[simp] theorem storeDiscard_quietA : (storeDiscard s).quietA = s.quietA := by rfl
@[simp] theorem storeDiscard_quietB : (storeDiscard s).quietB = s.quietB := by rfl
@[simp] theorem storeDiscard_timebase : (storeDiscard s).timebase = s.timebase := by rfl
@[simp] theorem storeDiscard_globals : (storeDiscard s).globals = s.globals := by rfl
@[simp] theorem storeDiscard_unitNumber : (storeDiscard s).unitNumber = s.unitNumber := by rfl
@[simp] theorem storeDiscard_stations : (storeDiscard s).stations = s.stations := by rfl
@[simp] theorem storeDiscard_codeMap : (storeDiscard s).codeMap = s.codeMap := by rfl
@[simp] theorem storeDiscard_latencyEnd : (storeDiscard s).latencyEnd = s.latencyEnd := by rfl
@[simp] theorem storeDiscard_streams : (storeDiscard s).streams = s.streams := by rfl
@[simp] theorem storeDiscard_plan : (storeDiscard s).plan = s.plan := by rfl
@[simp] theorem storeDiscard_timeline : (storeDiscard s).timeline = s.timeline := by rfl
@[simp] theorem storeDiscard_freeSlots : (storeDiscard s).freeSlots = s.freeSlots := by rfl
@[simp] theorem storeDiscard_forcedCloses : (storeDiscard s).forcedCloses = s.forcedCloses := by rfl
@[simp] theorem storeDiscard_notices : (storeDiscard s).notices = s.notices := by rfl
@[simp] theorem storeDiscard_lines : (storeDiscard s).lines = s.lines := by rfl
@[simp] theorem storeDiscard_center0 : (storeDiscard s).center0 = s.center0 := by rfl
@[simp] theorem storeDiscard_center1 : (storeDiscard s).center1 = s.center1 := by rfl
@[simp] theorem storeDiscard_passThrough : (storeDiscard s).passThrough = s.passThrough := by rfl
@[simp] theorem storeDiscard_pointer : (storeDiscard s).pointer = s.pointer := by rfl
@[simp] theorem storeDiscard_inputQueue : (storeDiscard s).inputQueue = s.inputQueue := by rfl
@[simp] theorem storeDiscard_slots : (storeDiscard s).slots = s.slots := by rfl
@[simp] theorem storeDiscard_station (m : StationNo) : (storeDiscard s).station m = s.station m := by simp only [State.station, storeDiscard_stations]
@[simp] theorem storeDiscard_stream (m : StreamNo) : (storeDiscard s).stream m = s.stream m := by simp only [State.stream, storeDiscard_streams]
@[simp] theorem storeDiscard_line (m : LineId) : (storeDiscard s).line m = s.line m := by simp only [State.line, storeDiscard_lines]
@[simp] theorem storeDiscard_slot (m : SlotNo) : (storeDiscard s).slot m = s.slot m := by simp only [State.slot, storeDiscard_slots]
@[simp] theorem storeDiscard_localTime : (storeDiscard s).localTime = s.localTime := by simp only [State.localTime, storeDiscard_timebase]
@[simp] theorem storeDiscard_center (m : CenterId) : (storeDiscard s).center m = s.center m := by cases m <;> simp only [State.center, storeDiscard_center0, storeDiscard_center1]

end

/-- A push never makes the Notice Queue longer than its capacity (R160). -/
theorem pushNotice_length (b : NoticeBody) (s : State) (h : s.notices.queue.length ≤ Config.noticeCapacity) :
    (pushNotice b s).notices.queue.length ≤ Config.noticeCapacity := by
  unfold pushNotice
  split
  · simp only [List.length_append, List.length_cons, List.length_nil]; omega
  · exact h

/-- An answer never makes an answer queue longer than its capacity (R171). -/
theorem placeAnswer_length (c m : CenterId) (a : Answer) (s : State)
    (h : (s.center m).answers.length ≤ Config.answerCapacity) :
    ((placeAnswer c a s).center m).answers.length ≤ Config.answerCapacity := by
  unfold placeAnswer
  split
  · by_cases e : c = m
    · subst e; simp only [State.center_setCenter_same, List.length_append, List.length_cons, List.length_nil]; omega
    · rw [State.center_setCenter_other _ _ e]; exact h
  · exact h

/-- An answer changes neither the state nor the transmission of a center link. -/
theorem placeAnswer_link (c m : CenterId) (a : Answer) (s : State) :
    ((placeAnswer c a s).center m).up = (s.center m).up ∧ ((placeAnswer c a s).center m).tx = (s.center m).tx := by
  unfold placeAnswer
  split
  · by_cases e : c = m
    · subst e; simp
    · rw [State.center_setCenter_other _ _ e]; exact ⟨rfl, rfl⟩
  · exact ⟨rfl, rfl⟩

end Sys2Proof.Machine
end

