-- ==== Sys2Proof/Laws/Kept.lean ====
section
/-! SUPPORT. What the window machinery leaves alone: `Kept s t` says that t agrees with s on everything that no close, opening
or forced close touches; one lemma per operation. -/

namespace Sys2Proof.Machine

set_option Elab.async false

/-- `t` agrees with `s` on the queue, the clock and Timebase, every configuration, the states of the stations, the Code Map,
the Plan Table, the ports but for answers, and the input queue. -/
structure Kept (s t : State) : Prop where
  pending       : t.pending = s.pending
  elapsed       : t.elapsed = s.elapsed
  timebase      : t.timebase = s.timebase
  globals       : t.globals = s.globals
  unitNumber    : t.unitNumber = s.unitNumber
  codeMap       : t.codeMap = s.codeMap
  latencyEnd    : t.latencyEnd = s.latencyEnd
  plan          : t.plan = s.plan
  lines         : t.lines = s.lines
  passThrough   : t.passThrough = s.passThrough
  pointer       : t.pointer = s.pointer
  inputQueue    : t.inputQueue = s.inputQueue
  stationConfig : ∀ n, (t.station n).config = (s.station n).config
  stationState  : ∀ n, (t.station n).run.state = (s.station n).run.state
  streamConfig  : ∀ k, (t.stream k).config = (s.stream k).config
  up            : ∀ c, (t.center c).up = (s.center c).up
  tx            : ∀ c, (t.center c).tx = (s.center c).tx

theorem Kept.refl (s : State) : Kept s s := by constructor <;> intros <;> rfl

theorem Kept.trans {s t u : State} (h : Kept s t) (g : Kept t u) : Kept s u := by
  constructor <;> intros <;> first
    | exact g.pending.trans h.pending | exact g.elapsed.trans h.elapsed | exact g.timebase.trans h.timebase
    | exact g.globals.trans h.globals | exact g.unitNumber.trans h.unitNumber | exact g.codeMap.trans h.codeMap
    | exact g.latencyEnd.trans h.latencyEnd | exact g.plan.trans h.plan | exact g.lines.trans h.lines
    | exact g.passThrough.trans h.passThrough | exact g.pointer.trans h.pointer | exact g.inputQueue.trans h.inputQueue
    | exact (g.stationConfig _).trans (h.stationConfig _) | exact (g.stationState _).trans (h.stationState _)
    | exact (g.streamConfig _).trans (h.streamConfig _) | exact (g.up _).trans (h.up _) | exact (g.tx _).trans (h.tx _)

/-- A fold of steps that each keep, keeps. -/
theorem Kept.foldl {α : Type} (f : State → α → State) (h : ∀ s a, Kept s (f s a)) (l : List α) (s : State) :
    Kept s (l.foldl f s) := by
  induction l generalizing s with
  | nil => exact .refl s
  | cons a l ih => exact (h s a).trans (ih (f s a))

/-! ## Notices, answers, slots, counters -/

theorem pushNotice_kept (b : NoticeBody) (s : State) : Kept s (pushNotice b s) := by constructor <;> intros <;> simp

theorem placeAnswer_kept (c : CenterId) (a : Answer) (s : State) : Kept s (placeAnswer c a s) := by
  constructor <;> intros <;> simp [placeAnswer_link]

theorem setSlot_kept (d : SlotNo) (x : Option HeldAnswer) (s : State) : Kept s (s.setSlot d x) := by
  constructor <;> intros <;> simp

/-- A change of a stream's run fields keeps. -/
theorem setStreamRun_kept (k : StreamNo) (r : StreamRun) (s : State) : Kept s (s.setStreamRun k r) := by
  constructor <;> intros <;> first
    | simp; done
    | (rename_i m; rw [State.stream_setStreamRun]; split <;> simp_all)

/-- A change of a station's run state that leaves its state keeps. -/
theorem setRun_kept (n : StationNo) (r : StationRun) (s : State) (h : r.state = (s.station n).run.state) :
    Kept s (s.setRun n r) := by
  constructor <;> intros <;> first
    | simp; done
    | (rename_i m; rw [State.station_setRun]; split <;> simp_all)

theorem forgetSlot_kept (d : SlotNo) (op : DeferredOp) (s : State) : Kept s (forgetSlot d op s) := by
  unfold forgetSlot
  split
  · exact setStreamRun_kept _ _ _
  · exact setRun_kept _ _ _ rfl

theorem endSlot_kept (d : SlotNo) (x : Result) (p : List Byte) (s : State) : Kept s (endSlot d x p s) := by
  unfold endSlot
  split
  · exact .refl s
  · exact ((placeAnswer_kept _ _ _).trans (setSlot_kept _ _ _)).trans (forgetSlot_kept _ _ _)

theorem completeDeferrals_kept (n : StationNo) (x : Result) (s : State) : Kept s (completeDeferrals n x s) :=
  Kept.foldl _ (fun s d => endSlot_kept d x [] s) _ s

theorem putLatch_kept (n : StationNo) (c : Condition) (l : Latch) (s : State) : Kept s (putLatch n c l s) :=
  setRun_kept _ _ _ rfl

theorem setLatch_kept (n : StationNo) (c : Condition) (g : ConditionOrigin) (s : State) : Kept s (setLatch n c g s) :=
  (putLatch_kept _ _ _ _).trans (pushNotice_kept _ _)

theorem risingEdge_kept (n : StationNo) (c : Condition) (s : State) : Kept s (risingEdge n c s) := by
  unfold risingEdge
  split
  · exact .refl s
  · split
    · exact .refl s
    · exact setLatch_kept _ _ _ _

theorem countStation_kept (n : StationNo) (c : CounterId) (s : State) : Kept s (countStation n c s) := by
  simp only [countStation]
  split
  · split
    · exact (setRun_kept _ _ _ (by rfl)).trans (pushNotice_kept _ _)
    · exact setRun_kept _ _ _ (by rfl)
  · exact .refl s

theorem storeDiscard_kept (s : State) : Kept s (storeDiscard s) := by constructor <;> intros <;> rfl

theorem lateEffect_kept (n : StationNo) (s : State) : Kept s (lateEffect n s) :=
  (countStation_kept _ _ _).trans (risingEdge_kept _ _ _)

/-! ## The Timeline and the closes -/

/-- A change of the Timeline and of the free slots keeps. -/
theorem timeline_kept (s : State) (l : List Record) (m : Nat) : Kept s { s with timeline := l, freeSlots := m } := by
  constructor <;> intros <;> rfl

theorem modifyRecord_kept (t : GridTime) (f : Record → Record) (s : State) : Kept s (modifyRecord t f s) := by
  constructor <;> intros <;> rfl

theorem retireIfDone_kept (t : GridTime) (s : State) : Kept s (retireIfDone t s) := by
  unfold retireIfDone
  split
  · exact .refl s
  · split
    · exact .refl s
    · exact timeline_kept _ _ _

theorem setFloor_kept (k : StreamNo) (t : GridTime) (s : State) : Kept s (setFloor k t s) := setStreamRun_kept _ _ _

theorem stopStream_kept (k : StreamNo) (c : StreamCause) (s : State) : Kept s (stopStream k c s) := by
  simp only [stopStream]
  split
  · exact ((setStreamRun_kept _ _ _).trans (pushNotice_kept _ _)).trans (endSlot_kept _ _ _ _)
  · exact (setStreamRun_kept _ _ _).trans (pushNotice_kept _ _)

theorem drainIfDone_kept (k : StreamNo) (s : State) : Kept s (drainIfDone k s) := by
  unfold drainIfDone
  split
  · exact stopStream_kept _ _ _
  · exact .refl s

theorem discardSet_kept (k : StreamNo) (a : AlignedSet) (c : DiscardCause) (l : List AlignedSet) (s : State) :
    Kept s (discardSet k a c l s) := (setStreamRun_kept _ _ _).trans (pushNotice_kept _ _)

theorem makeRoom_kept (k : StreamNo) (s : State) : Kept s (makeRoom k s) := by
  unfold makeRoom
  split
  · exact .refl s
  · split
    · split <;> exact discardSet_kept _ _ _ _ _
    · split
      · exact .refl s
      · exact discardSet_kept _ _ _ _ _
    · exact .refl s

theorem buildSet_kept (k : StreamNo) (r : Record) (w : Window) (c : CloseCause) (s : State) :
    Kept s (buildSet k r w c s) := (makeRoom_kept _ _).trans (setStreamRun_kept _ _ _)

theorem countMissing_kept (l : List StationNo) (s : State) : Kept s (countMissing l s) :=
  Kept.foldl _ (fun s n => countStation_kept n .missing s) l s

theorem closeWindow_kept (k : StreamNo) (t : GridTime) (c : CloseCause) (s : State) : Kept s (closeWindow k t c s) := by
  unfold closeWindow
  split
  · exact .refl s
  · exact ((((modifyRecord_kept _ _ _).trans (buildSet_kept _ _ _ _ _)).trans (setFloor_kept _ _ _)).trans
      (countMissing_kept _ _)).trans (retireIfDone_kept _ _)

theorem settleFrom_kept (k : StreamNo) (l : List GridTime) (s : State) : Kept s (settleFrom k l s) := by
  induction l generalizing s with
  | nil => exact .refl s
  | cons t l ih =>
    unfold settleFrom
    split
    · exact ih s
    · split
      · exact ((closeWindow_kept _ _ _ _).trans (drainIfDone_kept _ _)).trans (ih _)
      · exact .refl s
      · exact ih s
      · exact ih s

theorem settle_kept (k : StreamNo) (s : State) : Kept s (settle k s) := settleFrom_kept _ _ _

theorem settleAll_kept (s : State) : Kept s (settleAll s) := Kept.foldl _ (fun s k => settle_kept k s) _ s

theorem closeAll_kept (k : StreamNo) (c : CloseCause) (s : State) : Kept s (closeAll k c s) := by
  refine Kept.foldl _ (fun s t => ?_) _ s
  split
  · exact closeWindow_kept _ _ _ _
  · exact .refl s

theorem forceWindow_kept (t : GridTime) (s : State) (k : StreamNo) : Kept s (forceWindow t s k) := by
  simp only [forceWindow]
  split
  · exact ((closeWindow_kept _ _ _ _).trans (setStreamRun_kept _ _ _)).trans
      ((drainIfDone_kept _ _).trans (settle_kept _ _))
  · exact .refl s

theorem countForced_kept (s : State) : Kept s (countForced s) := by constructor <;> intros <;> rfl

theorem forceClose_kept (t : GridTime) (s : State) : Kept s (forceClose t s) := by
  unfold forceClose
  exact ((Kept.foldl _ (forceWindow_kept t) allStreams s).trans (retireIfDone_kept t _)).trans (countForced_kept _)

theorem createRecord_kept (t : GridTime) (c : CreationCause) (s : State) : Kept s (createRecord t c s) := by
  constructor <;> intros <;> rfl

theorem leaveAwaited_kept (n : StationNo) (s : State) : Kept s (leaveAwaited n s) :=
  (timeline_kept s _ s.freeSlots).trans (settleAll_kept _)

/-! ## Placement -/

theorem enterReport_kept (n : StationNo) (t : GridTime) (p : Report) (s : State) : Kept s (enterReport n t p s) :=
  ((timeline_kept s s.timeline _).trans (modifyRecord_kept _ _ _)).trans (settleAll_kept _)

theorem placeInRecord_kept (n : StationNo) (t : GridTime) (p : Report) (fuel : Nat) (s : State) :
    Kept s (placeInRecord n t p fuel s).1 := by
  induction fuel generalizing s with
  | zero => exact .refl s
  | succ fuel ih =>
    unfold placeInRecord
    split
    · exact .refl s
    · split
      · dsimp only; exact enterReport_kept n t p s
      · split
        · exact .refl s
        · split
          · dsimp only; exact (storeDiscard_kept s).trans (settleAll_kept _)
          · exact (forceClose_kept _ _).trans (ih _)

theorem createAndPlace_kept (n : StationNo) (t : GridTime) (p : Report) (s : State) :
    Kept s (createAndPlace n t p s).1 := by
  unfold createAndPlace
  split
  · exact (createRecord_kept _ _ _).trans (placeInRecord_kept _ _ _ _ _)
  · exact .refl s

theorem place_kept (n : StationNo) (t : GridTime) (p : Report) (s : State) : Kept s (place n t p s).1 := by
  unfold place
  split
  · split
    · exact countStation_kept _ _ _
    · exact placeInRecord_kept _ _ _ _ _
  · split
    · exact .refl s
    · split
      · exact createAndPlace_kept _ _ _ _
      · split
        · exact .refl s
        · split
          · exact (forceClose_kept _ _).trans (createAndPlace_kept _ _ _ _)
          · exact storeDiscard_kept s

theorem placement_kept (n : StationNo) (t : GridTime) (p : Report) (s : State) : Kept s (placement n t p s) := by
  unfold placement
  split
  · exact (lateEffect_kept _ _).trans (place_kept _ _ _ _)
  · exact place_kept _ _ _ _

/-! ## Schedules, deadlines, starts and stops -/

theorem markReached_kept (k : StreamNo) (t : GridTime) (s : State) : Kept s (markReached k t s) := setStreamRun_kept _ _ _

theorem scheduleRecord_kept (t : GridTime) (s : State) : Kept s (scheduleRecord t s) :=
  (createRecord_kept _ _ _).trans (settleAll_kept _)

theorem scheduleAt_kept (k : StreamNo) (t : GridTime) (s : State) : Kept s (scheduleAt k t s) := by
  simp only [scheduleAt]
  split
  · exact .refl s
  · split
    · exact scheduleRecord_kept _ _
    · split
      · exact .refl s
      · split
        · split
          · exact (forceClose_kept _ _).trans (scheduleRecord_kept _ _)
          · exact forceClose_kept _ _
        · exact (storeDiscard_kept s).trans (setFloor_kept _ _ _)

theorem reachSchedule_kept (k : StreamNo) (t : GridTime) (s : State) : Kept s (reachSchedule k t s) :=
  (scheduleAt_kept _ _ _).trans (markReached_kept _ _ _)

theorem expireDeadline_kept (t : GridTime) (k : StreamNo) (s : State) : Kept s (expireDeadline t k s) := by
  unfold expireDeadline
  split
  · exact .refl s
  · split
    · exact (modifyRecord_kept _ _ _).trans (settle_kept _ _)
    all_goals exact .refl s

theorem earliestEvent_mem {l : List (GridTime × (State → State))} {e : GridTime × (State → State)}
    (h : earliestEvent l = some e) : e ∈ l := by
  induction l generalizing e with
  | nil => cases h
  | cons a l ih =>
    unfold earliestEvent at h
    split at h
    · cases h; exact List.mem_cons_self
    · rename_i f hf
      split at h
      · cases h; exact List.mem_cons_of_mem _ (ih hf)
      · cases h; exact List.mem_cons_self

/-- What local time can reach: the expiry of a deadline, or a schedule point. -/
theorem dueEvents_cases {s : State} {e : GridTime × (State → State)} (h : e ∈ dueEvents s) :
    (∃ t k, e.2 = expireDeadline t k) ∨ (∃ t k, e.2 = reachSchedule k t) := by
  simp only [dueEvents, List.mem_append, List.mem_flatMap] at h
  rcases h with ⟨k, -, h⟩ | ⟨k, -, h⟩
  · simp only [dueDeadlines, List.mem_filterMap] at h
    obtain ⟨r, -, h⟩ := h
    split at h
    · split at h
      · cases h; exact .inl ⟨_, _, rfl⟩
      · cases h
    · cases h
  · unfold dueSchedule at h
    split at h
    · split at h
      · simp only [List.mem_singleton] at h; subst h; exact .inr ⟨_, _, rfl⟩
      · cases h
    · cases h

theorem reach_kept (fuel : Nat) (s : State) : Kept s (reach fuel s) := by
  induction fuel generalizing s with
  | zero => exact .refl s
  | succ fuel ih =>
    unfold reach
    split
    · exact .refl s
    · rename_i e he
      refine Kept.trans ?_ (ih _)
      rcases dueEvents_cases (earliestEvent_mem he) with ⟨t, k, h⟩ | ⟨t, k, h⟩ <;> rw [h]
      · exact expireDeadline_kept _ _ _
      · exact reachSchedule_kept _ _ _

theorem reachAll_kept (s : State) : Kept s (reachAll s) := reach_kept _ _

theorem openIn_kept (k : StreamNo) (t : GridTime) (s : State) : Kept s (openIn k t s) := by
  unfold openIn
  split
  · exact .refl s
  · exact (modifyRecord_kept _ _ _).trans (settle_kept _ _)

theorem startStream_kept (k : StreamNo) (s : State) : Kept s (startStream k s) := by
  refine ((setStreamRun_kept _ _ _).trans (pushNotice_kept _ _)).trans (Kept.foldl _ (fun s t => ?_) _ _)
  split
  · exact openIn_kept _ _ _
  · exact .refl s

theorem cutStream_kept (k : StreamNo) (s : State) : Kept s (cutStream k s) :=
  (closeAll_kept _ _ _).trans (stopStream_kept _ _ _)

theorem flushStream_kept (s : State) (k : StreamNo) : Kept s (flushStream s k) := by
  unfold flushStream
  split
  · exact .refl s
  · exact closeAll_kept _ _ _
  · exact (closeAll_kept _ _ _).trans (stopStream_kept _ _ _)

theorem stepWindows_kept (t : GridTime) (k : StreamNo) (s : State) : Kept s (stepWindows t k s) :=
  ((closeAll_kept _ _ _).trans (setFloor_kept _ _ _)).trans (setStreamRun_kept _ _ _)

theorem stepStream_kept (t : GridTime) (s : State) (k : StreamNo) : Kept s (stepStream t s k) := by
  unfold stepStream
  split
  · exact .refl s
  · exact stepWindows_kept _ _ _
  · exact (stepWindows_kept _ _ _).trans (stopStream_kept _ _ _)

end Sys2Proof.Machine
end

