-- ==== Sys2Proof/Laws/Requests.lean ====
section
/-! SUPPORT. What the judging of a request does, in the vocabulary of Safety: an offered request is handled in `s.taken gap`,
and each check passes or refuses. Also when an arbiter chooses nothing. -/

namespace Sys2Proof.Machine

set_option Elab.async false

/-- A row takes an offered request in the state with the head gone. -/
theorem takeRequest_offered {r : Request} {s : State} (h : s.offers r) (act : State → State) (gap : Nat) :
    takeRequest true r act (s.runClock gap) = act (s.taken gap) := by
  unfold takeRequest State.taken
  cases hq : s.inputQueue with
  | nil => simp [State.offers, hq] at h
  | cons q l => simp [State.offers, hq] at h; simp [State.runClock, hq, h]

/-- A request row with its own request handles it and ends with the choice of the arbiters. -/
theorem request_offered {r : Request} {s : State} {row : Bool} (h : s.offers r) (hr : row = true)
    (handle : Request → State → State) (gap : Nat) :
    request gap row r handle s = .next (finish (handle r (s.taken gap))) := by
  subst hr; simp [request, event, takeRequest_offered h]

theorem requestIs_of_carries {r : Request} {k n : Nat} (h : requestCarries r k n) : requestIs k r = true := by
  simp [requestIs, h.1, h.2.1]

theorem requestIs_of_fails {r : Request} {k n : Nat} (h : requestFailsLength r k n) : requestIs k r = true := by
  simp [requestIs, h.1, h.2.1]

theorem withPayload_of_carries {r : Request} {k n : Nat} (h : requestCarries r k n) (act : List Byte → State → State)
    (s : State) : withPayload r n act s = act (r.delivered.take n) s := by
  simp [withPayload, h.2.2.1, h.2.2.2]

theorem withPayload_of_fails {r : Request} {k n : Nat} (h : requestFailsLength r k n) (act : List Byte → State → State)
    (s : State) : withPayload r n act s = refuse r .badRequest s := by
  simp [withPayload, h.2.2]

theorem withStation_of_target {r : Request} {n : StationNo} (h : r.target = n.val) (act : StationNo → State → State)
    (s : State) : withStation r act s = act n s := by
  simp [withStation, h]

theorem withStation_of_none {r : Request} (h : 1024 ≤ r.target) (act : StationNo → State → State) (s : State) :
    withStation r act s = refuse r .badTarget s := by
  simp [withStation, Nat.not_lt.mpr h]

theorem withStream_of_target {r : Request} {k : StreamNo} (h : r.target = k.val) (act : StreamNo → State → State)
    (s : State) : withStream r act s = act k s := by
  simp [withStream, h]

theorem withStream_of_none {r : Request} (h : 8 ≤ r.target) (act : StreamNo → State → State) (s : State) :
    withStream r act s = refuse r .badTarget s := by
  simp [withStream, Nat.not_lt.mpr h]

/-! ## What the agent finds in the state in which it handles a request -/

section
variable (s : State) (gap : Nat)

@[simp] theorem State.taken_pending : (s.taken gap).pending = s.pending := rfl
@[simp] theorem State.taken_globals : (s.taken gap).globals = s.globals := rfl
@[simp] theorem State.taken_unitNumber : (s.taken gap).unitNumber = s.unitNumber := rfl
@[simp] theorem State.taken_stations : (s.taken gap).stations = s.stations := rfl
@[simp] theorem State.taken_codeMap : (s.taken gap).codeMap = s.codeMap := rfl
@[simp] theorem State.taken_latencyEnd : (s.taken gap).latencyEnd = s.latencyEnd := rfl
@[simp] theorem State.taken_streams : (s.taken gap).streams = s.streams := rfl
@[simp] theorem State.taken_plan : (s.taken gap).plan = s.plan := rfl
@[simp] theorem State.taken_timeline : (s.taken gap).timeline = s.timeline := rfl
@[simp] theorem State.taken_freeSlots : (s.taken gap).freeSlots = s.freeSlots := rfl
@[simp] theorem State.taken_forcedCloses : (s.taken gap).forcedCloses = s.forcedCloses := rfl
@[simp] theorem State.taken_storeDiscards : (s.taken gap).storeDiscards = s.storeDiscards := rfl
@[simp] theorem State.taken_notices : (s.taken gap).notices = s.notices := rfl
@[simp] theorem State.taken_lines : (s.taken gap).lines = s.lines := rfl
@[simp] theorem State.taken_center0 : (s.taken gap).center0 = s.center0 := rfl
@[simp] theorem State.taken_center1 : (s.taken gap).center1 = s.center1 := rfl
@[simp] theorem State.taken_passThrough : (s.taken gap).passThrough = s.passThrough := rfl
@[simp] theorem State.taken_pointer : (s.taken gap).pointer = s.pointer := rfl
@[simp] theorem State.taken_slots : (s.taken gap).slots = s.slots := rfl
@[simp] theorem State.taken_timebase : (s.taken gap).timebase = (s.runClock gap).timebase := rfl
@[simp] theorem State.taken_elapsed : (s.taken gap).elapsed = s.elapsed + gap := rfl
@[simp] theorem State.taken_quietA : (s.taken gap).quietA = s.quietA := rfl
@[simp] theorem State.taken_quietB : (s.taken gap).quietB = s.quietB := rfl
@[simp] theorem State.taken_inputQueue : (s.taken gap).inputQueue = s.inputQueue.tail := rfl
@[simp] theorem State.taken_station (n : StationNo) : (s.taken gap).station n = s.station n := rfl
@[simp] theorem State.taken_stream (k : StreamNo) : (s.taken gap).stream k = s.stream k := rfl
@[simp] theorem State.taken_line (l : LineId) : (s.taken gap).line l = s.line l := rfl
@[simp] theorem State.taken_center (c : CenterId) : (s.taken gap).center c = s.center c := by cases c <;> rfl
@[simp] theorem State.taken_slot (d : SlotNo) : (s.taken gap).slot d = s.slot d := rfl
@[simp] theorem freeSlot_taken : freeSlot (s.taken gap) = freeSlot s := rfl
@[simp] theorem recordAt_taken (t : GridTime) : recordAt (s.taken gap) t = recordAt s t := rfl
@[simp] theorem hasWaiting_taken (k : StreamNo) : hasWaiting (s.taken gap) k = hasWaiting s k := rfl

end

/-- With nothing to send, an arbiter chooses nothing. -/
theorem choose_nothing (c : CenterId) (s : State) (answers : (s.center c).answers = [])
    (sets : ∀ k, (s.stream k).run.queue = []) (notices : s.notices.queue = []) (through : s.passThrough = []) :
    choose c s = s := by
  have none : chosenStream s c = none := by simp [chosenStream, allStreams, offersSet, sets]
  unfold choose chooseSource
  simp only [answers, none]
  simp [chooseLast, notices, through]

end Sys2Proof.Machine
end

