-- ==== Sys2Proof/Laws/Steady.lean ====
section
/-! SUPPORT. What the station machine, the intake and the egress leave alone: `Steady s t` says that t agrees with s on the
Timebase, the Code Map, and each descriptor's code, enable field and being DISABLED; one lemma per operation. -/

namespace Sys2Proof.Machine

set_option Elab.async false

/-- `t` agrees with `s` on the Timebase, the Code Map, the unit number, the input queue, and on what the Code Map says of each
descriptor. -/
structure Steady (s t : State) : Prop where
  timebase   : t.timebase = s.timebase
  codeMap    : t.codeMap = s.codeMap
  inputQueue : t.inputQueue = s.inputQueue
  code       : ∀ n, (t.station n).config.code = (s.station n).config.code
  enable     : ∀ n, (t.station n).config.enable = (s.station n).config.enable
  disabled   : ∀ n, (t.station n).run.state = .disabled ↔ (s.station n).run.state = .disabled

theorem Steady.refl (s : State) : Steady s s := ⟨rfl, rfl, rfl, fun _ => rfl, fun _ => rfl, fun _ => Iff.rfl⟩

theorem Steady.trans {s t u : State} (h : Steady s t) (g : Steady t u) : Steady s u :=
  ⟨g.timebase.trans h.timebase, g.codeMap.trans h.codeMap, g.inputQueue.trans h.inputQueue,
    fun n => (g.code n).trans (h.code n), fun n => (g.enable n).trans (h.enable n),
    fun n => (g.disabled n).trans (h.disabled n)⟩

/-- What keeps is steady. -/
theorem Kept.steady {s t : State} (h : Kept s t) : Steady s t :=
  ⟨h.timebase, h.codeMap, h.inputQueue, fun n => by rw [h.stationConfig], fun n => by rw [h.stationConfig],
    fun n => by rw [h.stationState]⟩

/-- A fold of steady steps is steady. -/
theorem Steady.foldl {α : Type} (f : State → α → State) (h : ∀ s a, Steady s (f s a)) (l : List α) (s : State) :
    Steady s (l.foldl f s) := by
  induction l generalizing s with
  | nil => exact .refl s
  | cons a l ih => exact (h s a).trans (ih (f s a))

/-! ## The station machine -/

/-- A change of a station's run state that does not move it into or out of DISABLED is steady. -/
theorem setRun_steady (n : StationNo) (r : StationRun) (s : State)
    (h : r.state = .disabled ↔ (s.station n).run.state = .disabled) : Steady s (s.setRun n r) := by
  refine ⟨rfl, rfl, rfl, fun m => ?_, fun m => ?_, fun m => ?_⟩ <;> rw [State.station_setRun] <;> split
  all_goals first | rfl | (subst_vars; first | rfl | exact h)

/-- A change of a descriptor's configuration that keeps its code and its enable field is steady. -/
theorem setConfig_steady (n : StationNo) (c : StationConfig) (s : State) (hc : c.code = (s.station n).config.code)
    (he : c.enable = (s.station n).config.enable) : Steady s (s.setConfig n c) := by
  refine ⟨rfl, rfl, rfl, fun m => ?_, fun m => ?_, fun m => ?_⟩ <;>
    simp only [State.setConfig, State.station_setStation] <;> split
  all_goals first | rfl | (subst_vars; first | rfl | exact hc | exact he)

/-- A transition between states other than DISABLED is steady. -/
theorem moveStation_steady (n : StationNo) (new : StationState) (cause : StationCause) (r : StationRun) (s : State)
    (h : new ≠ .disabled) (hs : (s.station n).run.state ≠ .disabled) : Steady s (moveStation n new cause r s) := by
  have moved : Steady s (s.setRun n { r with state := new }) := setRun_steady n _ s (by simp [h, hs])
  have pushed := moved.trans (pushNotice_kept (.stationState n (s.station n).run.state new cause) _).steady
  unfold moveStation
  split
  · exact pushed.trans (completeDeferrals_kept _ _ _).steady
  · exact pushed

theorem restartSilence_steady (n : StationNo) (s : State) : Steady s (restartSilence n s) :=
  setRun_steady _ _ _ Iff.rfl

theorem testAcquired_steady (n : StationNo) (s : State) (hs : (s.station n).run.state ≠ .disabled) :
    Steady s (testAcquired n s) := by
  simp only [testAcquired]
  split
  · refine moveStation_steady _ _ _ _ _ ?_ hs
    split <;> decide
  · exact .refl s

/-- Steadiness carries "not DISABLED" over. -/
theorem Steady.live {s t : State} (h : Steady s t) {n : StationNo} (hs : (s.station n).run.state ≠ .disabled) :
    (t.station n).run.state ≠ .disabled := fun e => hs ((h.disabled n).mp e)

theorem beginAcquiring_steady (n : StationNo) (cause : StationCause) (t : GridTime) (suspect : Bool) (s : State)
    (hs : (s.station n).run.state ≠ .disabled) : Steady s (beginAcquiring n cause t suspect s) := by
  have moved := fun r => moveStation_steady n .acquiring cause r s (by decide) hs
  exact (moved _).trans (testAcquired_steady n _ ((moved _).live hs))

theorem counted_state (r : StationRun) (t : GridTime) (suspect : Bool) : (r.counted t suspect).state = r.state := by
  unfold StationRun.counted
  split
  · rfl
  · split <;> rfl

theorem countGood_steady (n : StationNo) (t : GridTime) (suspect : Bool) (s : State)
    (hs : (s.station n).run.state ≠ .disabled) : Steady s (countGood n t suspect s) := by
  have counted : Steady s (s.setRun n ((s.station n).run.counted t suspect)) :=
    setRun_steady n _ s (by rw [counted_state])
  exact counted.trans (testAcquired_steady n _ (counted.live hs))

theorem revertShape_steady (n : StationNo) (t : GridTime) (suspect : Bool) (s : State)
    (hs : (s.station n).run.state ≠ .disabled) : Steady s (revertShape n t suspect s) := by
  simp only [revertShape]
  split
  · exact .refl s
  · have moved := fun r => moveStation_steady n .acquiring .shapeReverted r s (by decide) hs
    exact (moved _).trans (countGood_steady _ _ _ _ ((moved _).live hs))
  · exact moveStation_steady _ _ _ _ _ (by decide) hs
  · exact moveStation_steady _ _ _ _ _ (by decide) hs

theorem advanceStation_steady (n : StationNo) (t : GridTime) (suspect : Bool) (s : State) :
    Steady s (advanceStation n t suspect s) := by
  unfold advanceStation
  split <;> rename_i h
  · exact .refl s
  · exact beginAcquiring_steady _ _ _ _ _ (by simp [h])
  · exact countGood_steady _ _ _ _ (by simp [h])
  · exact restartSilence_steady _ _
  · exact restartSilence_steady _ _
  · split
    · exact beginAcquiring_steady _ _ _ _ _ (by simp [h])
    · exact moveStation_steady _ _ _ _ _ (by decide) (by simp [h])
  · exact revertShape_steady _ _ _ _ (by simp [h])
  · exact revertShape_steady _ _ _ _ (by simp [h])

theorem markSuspect_steady (n : StationNo) (suspect : Bool) (s : State) : Steady s (markSuspect n suspect s) := by
  have marked : Steady s (s.setRun n { (s.station n).run with suspect := suspect }) := setRun_steady _ _ _ Iff.rfl
  simp only [markSuspect]
  split
  · exact marked.trans (risingEdge_kept _ _ _).steady
  · exact marked

theorem recordDelay_steady (n : StationNo) (delay : Nat) (s : State) : Steady s (recordDelay n delay s) := by
  unfold recordDelay
  split
  · exact .refl s
  · exact setRun_steady _ _ _ Iff.rfl

theorem takeGoodReport_steady (n : StationNo) (t : GridTime) (suspect short : Bool) (arrival : GridTime) (s : State) :
    Steady s (takeGoodReport n t suspect short arrival s) := by
  have first : Steady s (if short then risingEdge n .short s else s) := by
    split
    · exact (risingEdge_kept _ _ _).steady
    · exact .refl s
  exact ((first.trans (markSuspect_steady _ _ _)).trans (recordDelay_steady _ _ _)).trans (advanceStation_steady _ _ _ _)

theorem acquireShape_steady (n : StationNo) (cause : StationCause) (x : Shape) (s : State)
    (hs : (s.station n).run.state ≠ .disabled) : Steady s (acquireShape n cause x s) := by
  have adopted : Steady s (adoptShape n x s) := setConfig_steady _ _ _ rfl rfl
  exact adopted.trans (moveStation_steady _ _ _ _ _ (by decide) (adopted.live hs))

theorem confirmShape_steady (n : StationNo) (x : Shape) (s : State) (hs : (s.station n).run.state ≠ .disabled) :
    Steady s (confirmShape n x s) := by
  simp only [confirmShape]
  split
  · split
    · exact setRun_steady _ _ _ Iff.rfl
    · split
      · exact acquireShape_steady _ _ _ _ hs
      · exact moveStation_steady _ _ _ _ _ (by decide) hs
  · exact setRun_steady _ _ _ Iff.rfl

theorem heldShape_steady (n : StationNo) (x : Shape) (s : State) (hs : (s.station n).run.state ≠ .disabled) :
    Steady s (heldShape n x s) := by
  simp only [heldShape]
  split
  · exact restartSilence_steady _ _
  · exact moveStation_steady _ _ _ _ _ (by decide) hs

theorem takeShapeChange_steady (n : StationNo) (x : Shape) (s : State) : Steady s (takeShapeChange n x s) := by
  unfold takeShapeChange
  split <;> rename_i h
  · exact moveStation_steady _ _ _ _ _ (by decide) (by simp [h])
  · exact moveStation_steady _ _ _ _ _ (by decide) (by simp [h])
  · exact (moveStation_steady _ _ _ _ _ (by decide) (by simp [h])).trans (leaveAwaited_kept _ _).steady
  · exact confirmShape_steady _ _ _ (by simp [h])
  · exact heldShape_steady _ _ _ (by simp [h])
  all_goals exact .refl s

theorem acquisitionExpired_steady (n : StationNo) (s : State) : Steady s (acquisitionExpired n s) := by
  unfold acquisitionExpired
  split <;> rename_i h
  · exact moveStation_steady _ _ _ _ _ (by decide) (by simp [h])
  · exact .refl s

theorem silenceExpired_steady (n : StationNo) (s : State) : Steady s (silenceExpired n s) := by
  unfold silenceExpired
  split <;> rename_i h
  · exact ((moveStation_steady _ _ _ _ _ (by decide) (by simp [h])).trans (risingEdge_kept _ _ _).steady).trans
      (leaveAwaited_kept _ _).steady
  · exact moveStation_steady _ _ _ _ _ (by decide) (by simp [h])
  · exact moveStation_steady _ _ _ _ _ (by decide) (by simp [h])
  · exact moveStation_steady _ _ _ _ _ (by decide) (by simp [h])
  all_goals exact .refl s

/-! ## The intake -/

theorem setLine_steady (l : LineId) (x : LineLink) (s : State) : Steady s (s.setLine l x) := by
  constructor <;> intros <;> rfl

theorem unknownCodeEdge_steady (l : LineId) (code : Nat) (s : State) : Steady s (unknownCodeEdge l code s) := by
  unfold unknownCodeEdge
  split
  · exact .refl s
  · exact (setLine_steady _ _ _).trans (pushNotice_kept _ _).steady

theorem takeReport_steady (l : LineId) (f : QueuedFrame) (s : State) : Steady s (takeReport l f s) := by
  unfold takeReport
  split
  · exact .refl s
  · split
    · exact unknownCodeEdge_steady _ _ _
    · simp only [takeKnown]
      split
      · exact takeShapeChange_steady _ _ _
      · split
        · exact (countStation_kept _ _ _).steady.trans (risingEdge_kept _ _ _).steady
        · unfold takeOnGrid
          split
          · exact (countStation_kept _ _ _).steady
          · dsimp only
            split
            · exact (takeGoodReport_steady _ _ _ _ _ _).trans (placement_kept _ _ _ _).steady
            · exact takeGoodReport_steady _ _ _ _ _ _

theorem intake_steady (s : State) : Steady s (intake s) := by
  unfold intake
  split
  · exact .refl s
  · split
    · exact .refl s
    · refine Steady.trans ?_ (takeReport_steady _ _ _)
      constructor <;> intros <;> rfl

/-! ## The egress -/

theorem setCenter_steady (c : CenterId) (x : CenterLink) (s : State) : Steady s (s.setCenter c x) := by
  constructor <;> intros <;> simp

theorem setTx_steady (c : CenterId) (t : Option Transmission) (s : State) : Steady s (setTx c t s) :=
  setCenter_steady _ _ _

theorem departNotice_steady (m : Notice) (s : State) : Steady s (departNotice m s) := by
  unfold departNotice
  split
  · split
    · split <;> exact (putLatch_kept _ _ _ _).steady
    · exact .refl s
  · split
    · exact setLine_steady _ _ _
    · exact .refl s
  all_goals exact .refl s

theorem beginNotices_steady (c : CenterId) (s : State) : Steady s (beginNotices c s) := by
  refine Steady.trans ?_ (setTx_steady _ _ _)
  refine Steady.trans ?_ (Steady.foldl _ (fun s m => departNotice_steady m s) _ _)
  constructor <;> intros <;> rfl

theorem choose_steady (c : CenterId) (s : State) : Steady s (choose c s) := by
  have passed : ∀ b rest, Steady s (beginPassThrough c b rest s) := fun b rest => by
    refine Steady.trans ?_ (setTx_steady _ _ _)
    constructor <;> intros <;> rfl
  unfold choose
  split
  · unfold chooseSource
    split
    · exact setCenter_steady _ _ _
    · split
      · split
        · exact setTx_steady _ _ _
        · exact .refl s
      · unfold chooseLast
        split
        · exact beginNotices_steady _ _
        · split
          · split
            · exact passed _ _
            · exact .refl s
          · exact .refl s
  · exact .refl s

theorem finish_steady (s : State) : Steady s (finish s) := (choose_steady _ _).trans (choose_steady _ _)

theorem frameComplete_steady (c : CenterId) (s : State) : Steady s (frameComplete c s) := by
  unfold frameComplete
  split <;> first | exact setTx_steady _ _ _ | exact .refl s

theorem fragmentComplete_steady (c : CenterId) (s : State) : Steady s (fragmentComplete c s) := by
  unfold fragmentComplete
  split
  · split
    · split
      · exact setTx_steady _ _ _
      · exact (setStreamRun_kept _ _ _).steady.trans (setTx_steady _ _ _)
    · exact setTx_steady _ _ _
  all_goals exact .refl s

theorem abandon_steady (c : CenterId) (s : State) : Steady s (abandon c s) := by
  unfold abandon
  split
  · split
    · exact (setTx_steady _ _ _).trans (discardSet_kept _ _ _ _ _).steady
    · exact setTx_steady _ _ _
  all_goals first | exact setTx_steady _ _ _ | exact .refl s

end Sys2Proof.Machine
end

