-- ==== Sys2Proof/Laws/Store.lean ====
section
/-! SUPPORT. The Timeline as an ordered list (R66), what each change of it does to the record of an instant, and that every
change keeps `StoreOk` (R66, R69, R70). -/

namespace Sys2Proof.Machine

set_option Elab.async false

/-! ## The order of grid times (R1) -/

theorem earlier_iff {a b : GridTime} : earlier a b = true ↔ a.sec < b.sec ∨ a.sec = b.sec ∧ a.ns < b.ns := by
  simp [earlier]

theorem earlier_irrefl (a : GridTime) : earlier a a = false := by simp [earlier]

theorem earlier_trans {a b c : GridTime} (h : earlier a b = true) (g : earlier b c = true) : earlier a c = true := by
  rw [earlier_iff] at *; omega

theorem earlier_asymm {a b : GridTime} (h : earlier a b = true) : earlier b a = false := by
  simp [earlier] at *; omega

theorem earlier_total {a b : GridTime} (h : a ≠ b) (g : earlier a b = false) : earlier b a = true := by
  have : ¬(a.sec = b.sec ∧ a.ns = b.ns) := fun e => h (by cases a; cases b; simp_all)
  simp [earlier] at *; omega

theorem ne_of_earlier {a b : GridTime} (h : earlier a b = true) : a ≠ b := by
  rintro rfl; rw [earlier_irrefl] at h; cases h

/-! ## Ordered lists of records -/

/-- The order of R66. -/
abbrev Ordered (l : List Record) : Prop := l.Pairwise (fun a b => earlier a.instant b.instant = true)

/-- The held slots of a list of records. -/
abbrev held (l : List Record) : Nat := (l.map (fun r => r.arrivals.length)).sum

theorem mem_insertRecord {r q : Record} {l : List Record} : q ∈ insertRecord r l ↔ q = r ∨ q ∈ l := by
  induction l with
  | nil => simp [insertRecord]
  | cons a l ih =>
    unfold insertRecord
    split
    · simp
    · simp only [List.mem_cons, ih, or_left_comm]

theorem length_insertRecord (r : Record) (l : List Record) : (insertRecord r l).length = l.length + 1 := by
  induction l with
  | nil => rfl
  | cons a l ih => unfold insertRecord; split <;> simp [ih]

theorem held_insertRecord (r : Record) (l : List Record) : held (insertRecord r l) = r.arrivals.length + held l := by
  induction l with
  | nil => rfl
  | cons a l ih => unfold insertRecord; split <;> simp_all [held]; omega

theorem insertRecord_ordered {r : Record} {l : List Record} (h : Ordered l) (new : ∀ q ∈ l, q.instant ≠ r.instant) :
    Ordered (insertRecord r l) := by
  induction l with
  | nil => simp [insertRecord]
  | cons a l ih =>
    have ha := List.pairwise_cons.mp h
    unfold insertRecord
    split
    · rename_i e
      exact List.pairwise_cons.mpr ⟨fun q hq => by
        rcases List.mem_cons.mp hq with rfl | hq
        · exact e
        · exact earlier_trans e (ha.1 q hq), h⟩
    · rename_i e
      refine List.pairwise_cons.mpr ⟨fun q hq => ?_, ih ha.2 (fun q hq => new q (List.mem_cons_of_mem _ hq))⟩
      rcases mem_insertRecord.mp hq with rfl | hq
      · exact earlier_total (fun e => new a List.mem_cons_self e.symm) (by simpa using e)
      · exact ha.1 q hq

/-- A change that keeps every instant keeps the order. -/
theorem map_ordered {f : Record → Record} {l : List Record} (hf : ∀ r, (f r).instant = r.instant) (h : Ordered l) :
    Ordered (l.map f) := by
  rw [Ordered, List.pairwise_map]
  exact h.imp (fun e => by rw [hf, hf]; exact e)

/-- In an ordered list the record that a search finds is the only one of its instant: taking the instant out takes out exactly
that record. -/
theorem filter_found {l : List Record} {t : GridTime} {r : Record} (h : Ordered l)
    (found : l.find? (fun q => q.instant == t) = some r) :
    held (l.filter (fun q => !(q.instant == t))) + r.arrivals.length = held l ∧
      (l.filter (fun q => !(q.instant == t))).length + 1 = l.length := by
  induction l with
  | nil => cases found
  | cons a l ih =>
    have ha := List.pairwise_cons.mp h
    by_cases e : a.instant = t
    · have rest : l.filter (fun q => !(q.instant == t)) = l := by
        refine List.filter_eq_self.mpr (fun q hq => ?_)
        simp [e ▸ (ne_of_earlier (ha.1 q hq)).symm]
      simp [List.find?, e] at found
      subst found
      simp [List.filter, e, rest, held, Nat.add_comm]
    · have ne : (a.instant == t) = false := by simpa using e
      simp only [List.find?_cons, ne] at found
      have := ih ha.2 found
      simp only [List.filter_cons, ne, held, Bool.not_false, if_true, List.map_cons, List.sum_cons, List.length_cons] at *
      omega

/-- Changing the record that a search finds changes the held slots by the change of that record. -/
theorem held_map_found {l : List Record} {t : GridTime} {r : Record} {f : Record → Record} {m : Nat} (h : Ordered l)
    (found : l.find? (fun q => q.instant == t) = some r) (hf : (f r).arrivals.length = r.arrivals.length + m) :
    held (l.map (fun q => if q.instant == t then f q else q)) = held l + m := by
  induction l with
  | nil => cases found
  | cons a l ih =>
    have ha := List.pairwise_cons.mp h
    by_cases e : a.instant = t
    · have rest : l.map (fun q => if q.instant == t then f q else q) = l := by
        refine (List.map_congr_left (g := id) (fun q hq => ?_)).trans (List.map_id l)
        simp [e ▸ (ne_of_earlier (ha.1 q hq)).symm]
      simp [List.find?, e] at found
      subst found
      rw [List.map_cons, rest]
      simp [held, e, hf]; omega
    · have ne : (a.instant == t) = false := by simpa using e
      simp only [List.find?_cons, ne] at found
      have := ih ha.2 found
      simp only [held, List.map_cons, ne, List.sum_cons] at *
      simp only [Bool.false_eq_true, if_false] at *
      omega

/-! ## The record of an instant -/

theorem recordAt_instant {s : State} {t : GridTime} {r : Record} (h : recordAt s t = some r) : r.instant = t := by
  have := List.find?_some h
  simpa using this

theorem recordAt_mem {s : State} {t : GridTime} {r : Record} (h : recordAt s t = some r) : r ∈ s.timeline :=
  List.mem_of_find?_eq_some h

theorem recordAt_eq_none {s : State} {t : GridTime} : recordAt s t = none ↔ ∀ r ∈ s.timeline, r.instant ≠ t := by
  simp [recordAt, List.find?_eq_none]

/-- The record of an instant after a change of the record of one. -/
theorem recordAt_modifyRecord {t : GridTime} {f : Record → Record} (hf : ∀ r, (f r).instant = r.instant) (s : State)
    (i : GridTime) : recordAt (modifyRecord t f s) i = if i = t then (recordAt s t).map f else recordAt s i := by
  unfold recordAt modifyRecord
  dsimp only
  generalize s.timeline = l
  induction l with
  | nil => simp
  | cons a l ih =>
    rw [List.map_cons, List.find?_cons, List.find?_cons, List.find?_cons, ih]
    by_cases e : a.instant = t
    · subst e
      by_cases e' : i = a.instant
      · subst e'; simp [hf]
      · have : (a.instant == i) = false := by simpa using fun h => e' h.symm
        simp [hf, e', this]
    · have ne : (a.instant == t) = false := by simpa using e
      by_cases e' : i = t
      · subst e'; simp [ne]
      · simp [ne, e']

/-- Retirement takes out the record of its instant when nothing in it waits, and touches no other. -/
theorem recordAt_retireIfDone (t : GridTime) (s : State) (i : GridTime) :
    recordAt (retireIfDone t s) i = recordAt s i ∨ i = t ∧ recordAt (retireIfDone t s) i = none := by
  unfold retireIfDone
  split
  · exact .inl rfl
  · split
    · exact .inl rfl
    · by_cases e : i = t
      · refine .inr ⟨e, ?_⟩
        subst e
        rw [recordAt_eq_none]
        intro r hr
        simpa using (List.mem_filter.mp hr).2
      · refine .inl ?_
        unfold recordAt
        dsimp only
        rw [List.find?_filter]
        congr 1
        funext q
        by_cases e' : q.instant = i
        · simp [e', e]
        · simp [e']

/-! ## Arrival maps -/

theorem arrivalOf_eq_none {m : List (StationNo × Report)} {n : StationNo} : arrivalOf m n = none ↔ ∀ e ∈ m, e.1 ≠ n := by
  simp [arrivalOf, List.find?_eq_none]

theorem mem_arrivalInsert {n : StationNo} {p : Report} {m : List (StationNo × Report)} {e : StationNo × Report}
    (h : e ∈ arrivalInsert n p m) : e = (n, p) ∨ e ∈ m := by
  induction m with
  | nil => simpa [arrivalInsert] using h
  | cons a m ih =>
    unfold arrivalInsert at h
    split at h
    · rcases List.mem_cons.mp h with h | h
      · exact .inl h
      · exact .inr h
    · split at h
      · rcases List.mem_cons.mp h with h | h
        · exact .inl h
        · exact .inr (List.mem_cons_of_mem _ h)
      · rcases List.mem_cons.mp h with h | h
        · exact .inr (h ▸ List.mem_cons_self)
        · rcases ih h with h | h
          · exact .inl h
          · exact .inr (List.mem_cons_of_mem _ h)

/-- An arrival keeps the map keyed, one entry for a station (R69). -/
theorem arrivalInsert_keyed {n : StationNo} {p : Report} {m : List (StationNo × Report)}
    (h : m.Pairwise (fun a b => a.1 < b.1)) : (arrivalInsert n p m).Pairwise (fun a b => a.1 < b.1) := by
  induction m with
  | nil => simp [arrivalInsert]
  | cons a m ih =>
    have ha := List.pairwise_cons.mp h
    unfold arrivalInsert
    split
    · rename_i e
      exact List.pairwise_cons.mpr ⟨fun q hq => by
        rcases List.mem_cons.mp hq with rfl | hq
        · exact e
        · exact Nat.lt_trans e (ha.1 q hq), h⟩
    · split
      · rename_i e
        exact List.pairwise_cons.mpr ⟨fun q hq => by simpa [e] using ha.1 q hq, ha.2⟩
      · rename_i e e'
        refine List.pairwise_cons.mpr ⟨fun q hq => ?_, ih ha.2⟩
        rcases mem_arrivalInsert hq with rfl | hq
        · have : n.val ≠ a.1.val := fun e => e' (Fin.ext e)
          have : ¬n.val < a.1.val := e
          show a.1.val < n.val
          omega
        · exact ha.1 q hq

theorem length_arrivalInsert {n : StationNo} {p : Report} {m : List (StationNo × Report)} (h : arrivalOf m n = none) :
    (arrivalInsert n p m).length = m.length + 1 := by
  rw [arrivalOf_eq_none] at h
  induction m with
  | nil => rfl
  | cons a m ih =>
    unfold arrivalInsert
    split
    · rfl
    · split
      · rename_i e; exact absurd e.symm (h a List.mem_cons_self)
      · simp [ih (fun e he => h e (List.mem_cons_of_mem _ he))]

/-- What an arrival map holds after an arrival (R31). -/
theorem arrivalOf_arrivalInsert {n m : StationNo} {p : Report} {l : List (StationNo × Report)}
    (h : l.Pairwise (fun a b => a.1 < b.1)) :
    arrivalOf (arrivalInsert n p l) m = if m = n then some p else arrivalOf l m := by
  induction l with
  | nil =>
    by_cases e : n = m
    · simp [arrivalInsert, arrivalOf, e]
    · simp [arrivalInsert, arrivalOf, e, Ne.symm e]
  | cons a l ih =>
    obtain ⟨first, rest⟩ := List.pairwise_cons.1 h
    unfold arrivalInsert
    unfold arrivalOf at *
    split
    · by_cases e : n = m
      · simp [e]
      · simp [List.find?_cons, e, Ne.symm e]
    · split
      · rename_i c e
        by_cases k : n = m
        · simp [k]
        · have : ¬ a.1 = m := fun x => k (e.trans x)
          simp [k, Ne.symm k, this]
      · rename_i c e
        by_cases k : a.1 = m
        · have : m ≠ n := fun x => e (x.symm.trans k.symm)
          simp [k, this]
        · simp only [List.find?_cons, beq_eq_false_iff_ne.2 k]
          exact ih rest

/-! ## StoreOk -/

/-- `StoreOk` speaks only of the Timeline and the free slots. -/
theorem StoreOk.congr {s t : State} (h : StoreOk s) (tl : t.timeline = s.timeline) (fs : t.freeSlots = s.freeSlots) :
    StoreOk t := by
  refine ⟨by rw [tl]; exact h.ordered, by rw [tl]; exact h.keyed, ?_⟩
  have := h.slots
  unfold heldSlots at *
  rw [tl, fs]; exact this

/-- A change of the records that keeps instants and arrivals. -/
theorem StoreOk.map {s : State} (h : StoreOk s) {f : Record → Record} (hi : ∀ r, (f r).instant = r.instant)
    (ha : ∀ r, (f r).arrivals = r.arrivals) : StoreOk { s with timeline := s.timeline.map f } := by
  refine ⟨map_ordered hi h.ordered, fun r hr => ?_, ?_⟩
  · obtain ⟨q, hq, rfl⟩ := List.mem_map.mp hr
    rw [ha]; exact h.keyed q hq
  · have := h.slots
    simp only [heldSlots, List.map_map] at *
    rw [show ((fun r : Record => r.arrivals.length) ∘ f) = (fun r => r.arrivals.length) from funext fun r => by simp [ha]]
    exact this

theorem StoreOk.modifyRecord {s : State} (h : StoreOk s) (t : GridTime) {f : Record → Record}
    (hi : ∀ r, (f r).instant = r.instant) (ha : ∀ r, (f r).arrivals = r.arrivals) : StoreOk (modifyRecord t f s) := by
  refine h.map (fun r => ?_) (fun r => ?_) <;> split <;> simp [hi, ha]

theorem StoreOk.retireIfDone {s : State} (h : StoreOk s) (t : GridTime) : StoreOk (retireIfDone t s) := by
  unfold Machine.retireIfDone
  split
  · exact h
  · rename_i r found
    split
    · exact h
    · refine ⟨h.ordered.sublist List.filter_sublist, fun q hq => h.keyed q (List.mem_filter.mp hq).1, ?_⟩
      have := (filter_found h.ordered found).1
      have := h.slots
      simp only [heldSlots, held] at *
      omega

theorem StoreOk.createRecord {s : State} (h : StoreOk s) {t : GridTime} (new : recordAt s t = none) (c : CreationCause) :
    StoreOk (createRecord t c s) := by
  have instant : (newRecord s t c).instant = t := rfl
  have arrivals : (newRecord s t c).arrivals = [] := rfl
  refine ⟨insertRecord_ordered h.ordered (fun q hq => by rw [instant]; exact recordAt_eq_none.mp new q hq), fun r hr => ?_, ?_⟩
  · rcases mem_insertRecord.mp hr with rfl | hr
    · rw [arrivals]; exact .nil
    · exact h.keyed r hr
  · have e := held_insertRecord (newRecord s t c) s.timeline
    rw [arrivals, List.length_nil, Nat.zero_add] at e
    exact (congrArg (s.freeSlots + ·) e).trans h.slots

/-- The entry of a report takes one free slot for one map entry (R31, R70). -/
theorem StoreOk.enter {s : State} (h : StoreOk s) {n : StationNo} {t : GridTime} {p : Report} {r : Record}
    {f : Record → Record} (found : recordAt s t = some r) (new : arrivalOf r.arrivals n = none) (free : 0 < s.freeSlots)
    (hi : ∀ q, (f q).instant = q.instant) (ha : ∀ q, (f q).arrivals = arrivalInsert n p q.arrivals) :
    StoreOk (Machine.modifyRecord t f { s with freeSlots := s.freeSlots - 1 }) := by
  refine ⟨map_ordered (fun q => by split <;> simp [hi]) h.ordered, fun q hq => ?_, ?_⟩
  · obtain ⟨q', hq', rfl⟩ := List.mem_map.mp hq
    split
    · rw [ha]; exact arrivalInsert_keyed (h.keyed q' hq')
    · exact h.keyed q' hq'
  · have e := held_map_found (m := 1) h.ordered found (f := f) (by rw [ha, length_arrivalInsert new])
    have := h.slots
    simp only [heldSlots, held, Machine.modifyRecord] at *
    omega

/-- The withdrawal of a station's reports frees their slots (R82). -/
theorem StoreOk.withdraw {s : State} (h : StoreOk s) (n : StationNo) : StoreOk (withdraw n s) := by
  refine ⟨map_ordered (fun _ => rfl) h.ordered, fun r hr => ?_, ?_⟩
  · obtain ⟨q, hq, rfl⟩ := List.mem_map.mp hr
    exact (h.keyed q hq).sublist List.filter_sublist
  · have split : ∀ l : List Record, held (l.map (·.without n)) +
        (l.map (fun r => (r.arrivals.filter (fun e => e.1 == n)).length)).sum = held l := by
      intro l
      induction l with
      | nil => rfl
      | cons a l ih =>
        have : (a.arrivals.filter (fun e => !(e.1 == n))).length + (a.arrivals.filter (fun e => e.1 == n)).length =
            a.arrivals.length := by
          generalize a.arrivals = m
          induction m with
          | nil => rfl
          | cons e m ih => by_cases c : e.1 = n <;> simp [c] <;> omega
        simp only [held, List.map_cons, List.sum_cons, Record.without] at *
        omega
    have := split s.timeline
    have := h.slots
    simp only [heldSlots, held, Machine.withdraw] at *
    omega

end Sys2Proof.Machine
end

