-- ==== Sys2Proof/Laws/Sane.lean ====
section
/-! SUPPORT. `Sane` is the ordered Timeline with its slots accounted for, and every queue within its capacity (Table 0-2); one
lemma per operation that it is kept. `Closes s t` says that t comes from s by closes alone: no record is new, no window begins
to wait, and no arrival map changes. -/

namespace Sys2Proof.Machine

set_option Elab.async false

/-- The Timeline and the Report Store are consistent and every queue is within its capacity. -/
structure Sane (s : State) : Prop where
  store  : StoreOk s
  within : WithinCapacity s

/-- The answer queues of a state with the same center links. -/
theorem centers_of {s t : State} (h0 : t.center0 = s.center0) (h1 : t.center1 = s.center1)
    (h : ∀ c, (s.center c).answers.length ≤ 8) (c : CenterId) : (t.center c).answers.length ≤ 8 := by
  have h := h c
  cases c <;> simp only [State.center] at * <;> simpa only [h0, h1] using h

/-- A state with the same Timeline and slots, and queues within their capacities. -/
theorem Sane.of {s t : State} (h : Sane s) (timeline : t.timeline = s.timeline) (free : t.freeSlots = s.freeSlots)
    (notices : t.notices.queue.length ≤ 256) (requests : t.inputQueue.length ≤ 4) (through : t.passThrough.length ≤ 64)
    (received : ∀ l, (t.line l).queue.length ≤ 32) (answers : ∀ c, (t.center c).answers.length ≤ 8)
    (sets : ∀ k, (t.stream k).run.queue.length ≤ 16) : Sane t :=
  ⟨h.store.congr timeline free, by rw [timeline]; exact h.within.records, notices, requests, through, received, answers, sets⟩

/-- A fold of sane steps is sane. -/
theorem Sane.foldl {α : Type} {f : State → α → State} (hf : ∀ s a, Sane s → Sane (f s a)) (l : List α) {s : State}
    (h : Sane s) : Sane (l.foldl f s) := by
  induction l generalizing s with
  | nil => exact h
  | cons a l ih => exact ih (hf s a h)

/-! ## Updates of one part -/

theorem Sane.setStation {s : State} (h : Sane s) (n : StationNo) (x : Station) : Sane (s.setStation n x) :=
  h.of rfl rfl h.within.notices h.within.requests h.within.passThrough h.within.received
    (fun c => by simpa using h.within.answers c) h.within.sets

theorem Sane.setRun {s : State} (h : Sane s) (n : StationNo) (r : StationRun) : Sane (s.setRun n r) := h.setStation _ _

theorem Sane.setConfig {s : State} (h : Sane s) (n : StationNo) (c : StationConfig) : Sane (s.setConfig n c) :=
  h.setStation _ _

theorem Sane.setStream {s : State} (h : Sane s) (k : StreamNo) (x : Stream) (hx : x.run.queue.length ≤ 16) :
    Sane (s.setStream k x) :=
  h.of rfl rfl h.within.notices h.within.requests h.within.passThrough h.within.received
    (fun c => by simpa using h.within.answers c)
    (fun m => by rw [State.stream_setStream]; split <;> first | exact hx | exact h.within.sets m)

/-- A change of a stream's run fields whose queue is within the capacity. -/
theorem Sane.setStreamRun {s : State} (h : Sane s) (k : StreamNo) (r : StreamRun) (hr : r.queue.length ≤ 16) :
    Sane (s.setStreamRun k r) := h.setStream _ _ hr

theorem Sane.setLine {s : State} (h : Sane s) (l : LineId) (x : LineLink) (hx : x.queue.length ≤ 32) :
    Sane (s.setLine l x) :=
  h.of rfl rfl h.within.notices h.within.requests h.within.passThrough
    (fun m => by rw [State.line_setLine]; split <;> first | exact hx | exact h.within.received m)
    (fun c => by simpa using h.within.answers c) h.within.sets

theorem Sane.setCenter {s : State} (h : Sane s) (c : CenterId) (x : CenterLink) (hx : x.answers.length ≤ 8) :
    Sane (s.setCenter c x) :=
  h.of (by simp) (by simp) (by simpa using h.within.notices) (by simpa using h.within.requests)
    (by simpa using h.within.passThrough) (fun l => by simpa using h.within.received l)
    (fun m => by by_cases e : c = m <;> first | (subst e; simpa using hx) | (simpa [e] using h.within.answers m))
    (fun k => by simpa using h.within.sets k)

theorem Sane.setSlot {s : State} (h : Sane s) (d : SlotNo) (x : Option HeldAnswer) : Sane (s.setSlot d x) :=
  h.of rfl rfl h.within.notices h.within.requests h.within.passThrough h.within.received
    (fun c => by simpa using h.within.answers c) h.within.sets

/-- The clock is no part of it. -/
theorem Sane.runClock {s : State} (h : Sane s) (ns : Nat) : Sane (s.runClock ns) :=
  h.of rfl rfl h.within.notices h.within.requests h.within.passThrough h.within.received
    (fun c => by simpa using h.within.answers c) h.within.sets

/-! ## Notices, answers, slots, conditions, counters -/

theorem Sane.pushNotice {s : State} (h : Sane s) (b : NoticeBody) : Sane (pushNotice b s) :=
  h.of (by simp) (by simp) (pushNotice_length b s h.within.notices) (by simpa using h.within.requests)
    (by simpa using h.within.passThrough) (fun l => by simpa using h.within.received l)
    (fun c => by simpa using h.within.answers c) (fun k => by simpa using h.within.sets k)

theorem Sane.placeAnswer {s : State} (h : Sane s) (c : CenterId) (a : Answer) : Sane (placeAnswer c a s) := by
  unfold Machine.placeAnswer
  split
  · rename_i room
    refine h.setCenter _ _ ?_
    simp only [List.length_append, List.length_cons, List.length_nil]
    exact room
  · exact h

theorem Sane.answerRequest {s : State} (h : Sane s) (r : Request) (x : Result) (p : List Byte) :
    Sane (answerRequest r x p s) := h.placeAnswer _ _

theorem Sane.refuse {s : State} (h : Sane s) (r : Request) (x : Result) : Sane (refuse r x s) := h.placeAnswer _ _

theorem Sane.holdAnswer {s : State} (h : Sane s) (d : SlotNo) (r : Request) (op : DeferredOp) :
    Sane (holdAnswer d r op s) := h.setSlot _ _

theorem Sane.endSlot {s : State} (h : Sane s) (d : SlotNo) (x : Result) (p : List Byte) : Sane (endSlot d x p s) := by
  unfold Machine.endSlot
  split
  · exact h
  · have placed := fun c a => (h.placeAnswer c a).setSlot d none
    unfold forgetSlot
    split
    · exact (placed _ _).setStreamRun _ _ ((placed _ _).within.sets _)
    · exact (placed _ _).setRun _ _

theorem Sane.completeDeferrals {s : State} (h : Sane s) (n : StationNo) (x : Result) : Sane (completeDeferrals n x s) :=
  Sane.foldl (fun _ _ h => h.endSlot _ _ _) _ h

theorem Sane.putLatch {s : State} (h : Sane s) (n : StationNo) (c : Condition) (l : Latch) : Sane (putLatch n c l s) :=
  h.setRun _ _

theorem Sane.setLatch {s : State} (h : Sane s) (n : StationNo) (c : Condition) (o : ConditionOrigin) :
    Sane (setLatch n c o s) := (h.putLatch _ _ _).pushNotice _

theorem Sane.risingEdge {s : State} (h : Sane s) (n : StationNo) (c : Condition) : Sane (risingEdge n c s) := by
  unfold Machine.risingEdge
  split
  · exact h
  · split <;> first | exact h | exact h.setLatch _ _ _

theorem Sane.clearLatch {s : State} (h : Sane s) (n : StationNo) (c : Condition) : Sane (clearLatch n c s) := by
  simp only [Machine.clearLatch]
  split <;> first | exact (h.putLatch _ _ _).setLatch _ _ _ | exact h.putLatch _ _ _

theorem Sane.clearUnknownCode {s : State} (h : Sane s) (l : LineId) : Sane (clearUnknownCode l s) :=
  h.setLine _ _ (h.within.received l)

theorem Sane.unknownCodeEdge {s : State} (h : Sane s) (l : LineId) (code : Nat) : Sane (unknownCodeEdge l code s) := by
  unfold Machine.unknownCodeEdge
  split
  · exact h
  · exact (h.setLine l _ (by exact h.within.received l)).pushNotice _

theorem Sane.countStation {s : State} (h : Sane s) (n : StationNo) (c : CounterId) : Sane (countStation n c s) := by
  simp only [Machine.countStation]
  split
  · split <;> first | exact (h.setRun _ _).pushNotice _ | exact h.setRun _ _
  · exact h

theorem Sane.lateEffect {s : State} (h : Sane s) (n : StationNo) : Sane (lateEffect n s) :=
  (h.countStation _ _).risingEdge _ _

theorem Sane.storeDiscard {s : State} (h : Sane s) : Sane (storeDiscard s) :=
  h.of rfl rfl h.within.notices h.within.requests h.within.passThrough h.within.received
    (centers_of rfl rfl h.within.answers) h.within.sets

/-! ## What closes do -/

/-- No record is new, no window begins to wait, no arrival map changes. -/
structure Closes (s t : State) : Prop where
  sub      : (instants t).Sublist (instants s)
  waiting  : ∀ i k, waitingAt t i k = true → waitingAt s i k = true
  arrivals : ∀ i r', recordAt t i = some r' → ∃ r, recordAt s i = some r ∧ r'.arrivals = r.arrivals

theorem Closes.refl (s : State) : Closes s s := ⟨.refl _, fun _ _ h => h, fun _ r h => ⟨r, h, rfl⟩⟩

theorem Closes.trans {s t u : State} (h : Closes s t) (g : Closes t u) : Closes s u :=
  ⟨g.sub.trans h.sub, fun i k w => h.waiting i k (g.waiting i k w), fun i r' e => by
    obtain ⟨r, e, a⟩ := g.arrivals i r' e
    obtain ⟨q, e, b⟩ := h.arrivals i r e
    exact ⟨q, e, a.trans b⟩⟩

theorem Closes.foldl {α : Type} {f : State → α → State} (hf : ∀ s a, Closes s (f s a)) (l : List α) (s : State) :
    Closes s (l.foldl f s) := by
  induction l generalizing s with
  | nil => exact .refl s
  | cons a l ih => exact (hf s a).trans (ih (f s a))

/-- What leaves the Timeline alone. -/
theorem Closes.of_timeline {s t : State} (h : t.timeline = s.timeline) : Closes s t := by
  have at_ : ∀ i, recordAt t i = recordAt s i := fun i => by unfold recordAt; rw [h]
  refine ⟨?_, fun i k w => ?_, fun i r' e => ⟨r', by rw [← at_]; exact e, rfl⟩⟩
  · have same : instants t = instants s := by unfold instants; rw [h]
    exact same ▸ List.Sublist.refl _
  · unfold waitingAt windowAt at *; rw [← at_]; exact w

/-- A record's window stops waiting. -/
theorem modifyRecord_closes (t : GridTime) (k : StreamNo) (w : Window) (s : State) (hw : w.waiting = false) :
    Closes s (modifyRecord t (fun q => q.setWindow k w) s) := by
  have at_ := recordAt_modifyRecord (t := t) (f := fun q => q.setWindow k w) (fun _ => rfl) s
  refine ⟨?_, fun i j e => ?_, fun i r' e => ?_⟩
  · have : instants (modifyRecord t (fun q => q.setWindow k w) s) = instants s := by
      simp only [instants, modifyRecord, List.map_map]
      refine List.map_congr_left (fun q _ => ?_)
      dsimp only [Function.comp]
      split <;> rfl
    exact this ▸ List.Sublist.refl _
  · simp only [waitingAt, windowAt, at_] at e ⊢
    by_cases hi : i = t
    · subst hi
      cases h : recordAt s i with
      | none => simp [h] at e
      | some r =>
        simp only [h, if_true, Option.map_some, Record.setWindow, Fin.getElem_fin, Vector.getElem_set] at e ⊢
        split at e
        · rw [hw] at e; cases e
        · exact e
    · simpa only [hi, if_false] using e
  · rw [at_] at e
    by_cases hi : i = t
    · subst hi
      cases h : recordAt s i with
      | none => simp [h] at e
      | some r =>
        simp only [h, if_true, Option.map_some, Option.some.injEq] at e
        exact ⟨r, rfl, e ▸ rfl⟩
    · rw [if_neg hi] at e
      exact ⟨r', e, rfl⟩

theorem retireIfDone_closes (t : GridTime) (s : State) : Closes s (retireIfDone t s) := by
  have at_ := recordAt_retireIfDone t s
  refine ⟨?_, fun i k w => ?_, fun i r' e => ?_⟩
  · unfold retireIfDone
    split
    · exact .refl _
    · split
      · exact .refl _
      · exact List.filter_sublist.map _
  · unfold waitingAt windowAt at *
    rcases at_ i with h | ⟨-, h⟩ <;> rw [h] at w
    · exact w
    · cases w
  · rcases at_ i with h | ⟨-, h⟩ <;> rw [h] at e
    · exact ⟨r', e, rfl⟩
    · cases e

/-! ## Sets, closes, cascades -/

theorem makeRoom_timeline (k : StreamNo) (s : State) : (makeRoom k s).timeline = s.timeline := by
  unfold makeRoom
  split
  · rfl
  · split
    · split <;> simp [discardSet]
    · split <;> simp [discardSet]
    · rfl

theorem makeRoom_freeSlots (k : StreamNo) (s : State) : (makeRoom k s).freeSlots = s.freeSlots := by
  unfold makeRoom
  split
  · rfl
  · split
    · split <;> simp [discardSet]
    · split <;> simp [discardSet]
    · rfl

/-- A full queue loses one set, so that the new one has room (R129). -/
theorem makeRoom_sane {s : State} (h : Sane s) (k : StreamNo) :
    Sane (makeRoom k s) ∧ ((makeRoom k s).stream k).run.queue.length < 16 := by
  have full := h.within.sets k
  unfold makeRoom
  split
  · exact ⟨h, ‹_›⟩
  · rename_i long
    have len : ¬(s.stream k).run.queue.length < 16 := long
    have discard : ∀ a c l, l.length < 16 →
        Sane (discardSet k a c l s) ∧ ((discardSet k a c l s).stream k).run.queue.length < 16 := fun a c l hl =>
      ⟨(h.setStreamRun _ _ (Nat.le_of_lt hl)).pushNotice _, by simpa [discardSet] using hl⟩
    split <;> rename_i q <;> rw [q] at len full <;> simp only [List.length_cons, List.length_nil] at len full
    · split <;> exact discard _ _ _ (by simp only [List.length_cons]; omega)
    · omega
    · omega

theorem Sane.buildSet {s : State} (h : Sane s) (k : StreamNo) (r : Record) (w : Window) (c : CloseCause) :
    Sane (buildSet k r w c s) := by
  have room := makeRoom_sane h k
  refine room.1.setStreamRun _ _ ?_
  have := room.2
  simp only [List.length_append, List.length_cons, List.length_nil]
  omega

theorem Sane.setFloor {s : State} (h : Sane s) (k : StreamNo) (t : GridTime) : Sane (setFloor k t s) :=
  h.setStreamRun _ _ (h.within.sets k)

theorem Sane.stopStream {s : State} (h : Sane s) (k : StreamNo) (c : StreamCause) : Sane (stopStream k c s) := by
  simp only [Machine.stopStream]
  have stopped := (h.setStreamRun k { (s.stream k).run with state := .stopped, pendingStop := none } (h.within.sets k)).pushNotice
    (.streamState k (s.stream k).run.state .stopped c)
  split <;> first | exact stopped.endSlot _ _ _ | exact stopped

theorem stopStream_closes (k : StreamNo) (c : StreamCause) (s : State) : Closes s (stopStream k c s) := by
  refine Closes.of_timeline ?_
  simp only [Machine.stopStream]
  split <;> simp

theorem Sane.drainIfDone {s : State} (h : Sane s) (k : StreamNo) : Sane (drainIfDone k s) := by
  unfold Machine.drainIfDone
  split <;> first | exact h.stopStream _ _ | exact h

theorem drainIfDone_closes (k : StreamNo) (s : State) : Closes s (drainIfDone k s) := by
  unfold drainIfDone
  split <;> first | exact stopStream_closes _ _ _ | exact .refl s

theorem countMissing_timeline (l : List StationNo) (s : State) : (countMissing l s).timeline = s.timeline := by
  unfold countMissing
  induction l generalizing s with
  | nil => rfl
  | cons n l ih => exact (ih _).trans (by simp)

theorem countMissing_freeSlots (l : List StationNo) (s : State) : (countMissing l s).freeSlots = s.freeSlots := by
  unfold countMissing
  induction l generalizing s with
  | nil => rfl
  | cons n l ih => exact (ih _).trans (by simp)

theorem Sane.countMissing {s : State} (h : Sane s) (l : List StationNo) : Sane (countMissing l s) :=
  Sane.foldl (fun _ _ h => h.countStation _ _) _ h

/-- A change of records that keeps instants and arrivals. -/
theorem Sane.modifyRecord {s : State} (h : Sane s) (t : GridTime) {f : Record → Record}
    (hi : ∀ r, (f r).instant = r.instant) (ha : ∀ r, (f r).arrivals = r.arrivals) : Sane (modifyRecord t f s) :=
  ⟨h.store.modifyRecord t hi ha, by simpa [Machine.modifyRecord] using h.within.records, h.within.notices,
    h.within.requests, h.within.passThrough, h.within.received,
    (centers_of rfl rfl h.within.answers), h.within.sets⟩

theorem Sane.retireIfDone {s : State} (h : Sane s) (t : GridTime) : Sane (retireIfDone t s) := by
  refine ⟨h.store.retireIfDone t, ?_⟩
  unfold Machine.retireIfDone
  split
  · exact h.within
  · split
    · exact h.within
    · exact ⟨Nat.le_trans (List.length_filter_le _ _) h.within.records, h.within.notices, h.within.requests,
        h.within.passThrough, h.within.received,
        (centers_of rfl rfl h.within.answers), h.within.sets⟩

theorem Sane.closeWindow {s : State} (h : Sane s) (k : StreamNo) (t : GridTime) (c : CloseCause) :
    Sane (closeWindow k t c s) := by
  unfold Machine.closeWindow
  split
  · exact h
  · refine Sane.retireIfDone (Sane.countMissing (Sane.setFloor (Sane.buildSet ?_ _ _ _ _) _ _) _) _
    exact h.modifyRecord t (fun _ => rfl) (fun _ => rfl)

theorem closeWindow_closes (k : StreamNo) (t : GridTime) (c : CloseCause) (s : State) :
    Closes s (closeWindow k t c s) := by
  unfold closeWindow
  split
  · exact .refl s
  · rename_i r _
    refine Closes.trans ?_ (retireIfDone_closes t _)
    refine (modifyRecord_closes t k { r.windows[k] with state := .closed c } s rfl).trans (.of_timeline ?_)
    rw [countMissing_timeline]
    simp [setFloor, buildSet, makeRoom_timeline]

/-- After its close a window no longer waits. -/
theorem closeWindow_done (k : StreamNo) (t : GridTime) (c : CloseCause) (s : State) :
    waitingAt (closeWindow k t c s) t k = false := by
  unfold closeWindow
  split
  · rename_i h; unfold waitingAt windowAt; rw [h]; rfl
  · rename_i r h
    refine Bool.eq_false_iff.mpr (fun w => ?_)
    have w := (retireIfDone_closes t _).waiting t k w
    refine absurd ?_ (Bool.false_ne_true)
    rw [← w]
    unfold waitingAt windowAt recordAt
    rw [countMissing_timeline]
    have tl : ∀ u : State, (setFloor k t (buildSet k r r.windows[k] c u)).timeline = u.timeline := fun u => by
      simp [setFloor, buildSet, makeRoom_timeline]
    rw [tl]
    have at_ := recordAt_modifyRecord (t := t) (f := fun q => q.setWindow k { r.windows[k] with state := .closed c })
      (fun _ => rfl) s t
    unfold recordAt at at_ h
    rw [at_, if_pos rfl, h]
    simp [Record.setWindow, Window.waiting]

theorem Sane.settle {s : State} (h : Sane s) (k : StreamNo) : Sane (settle k s) := by
  have from_ : ∀ (l : List GridTime) (s : State), Sane s → Sane (settleFrom k l s) := by
    intro l
    induction l with
    | nil => exact fun _ h => h
    | cons t l ih =>
      intro s h
      unfold settleFrom
      split
      · exact ih s h
      · split
        · exact ih _ ((h.closeWindow _ _ _).drainIfDone _)
        · exact h
        · exact ih s h
        · exact ih s h
  exact from_ _ _ h

theorem settle_closes (k : StreamNo) (s : State) : Closes s (settle k s) := by
  have from_ : ∀ (l : List GridTime) (s : State), Closes s (settleFrom k l s) := by
    intro l
    induction l with
    | nil => exact Closes.refl
    | cons t l ih =>
      intro s
      unfold settleFrom
      split
      · exact ih s
      · split
        · exact ((closeWindow_closes _ _ _ _).trans (drainIfDone_closes _ _)).trans (ih _)
        · exact .refl s
        · exact ih s
        · exact ih s
  exact from_ _ _

theorem Sane.settleAll {s : State} (h : Sane s) : Sane (settleAll s) := Sane.foldl (fun _ k h => h.settle k) _ h

theorem Sane.closeAll {s : State} (h : Sane s) (k : StreamNo) (c : CloseCause) : Sane (closeAll k c s) :=
  Sane.foldl (fun s t h => by split <;> first | exact h.closeWindow _ _ _ | exact h) _ h

/-! ## Forced closes (R78) -/

theorem Sane.forceWindow {s : State} (h : Sane s) (t : GridTime) (k : StreamNo) : Sane (forceWindow t s k) := by
  simp only [Machine.forceWindow]
  split
  · have closed := h.closeWindow k t .forced
    refine Sane.settle (Sane.drainIfDone (closed.setStreamRun _ _ ?_) _) _
    exact closed.within.sets k
  · exact h

theorem forceWindow_closes (t : GridTime) (s : State) (k : StreamNo) : Closes s (forceWindow t s k) := by
  simp only [forceWindow]
  split
  · refine Closes.trans ?_ (settle_closes _ _)
    refine Closes.trans ?_ (drainIfDone_closes _ _)
    exact Closes.trans (closeWindow_closes k t .forced s) (.of_timeline rfl)
  · exact .refl s

/-- A forced window no longer waits. -/
theorem forceWindow_done (t : GridTime) (s : State) (k : StreamNo) : waitingAt (forceWindow t s k) t k = false := by
  unfold forceWindow
  split
  · have later : ∀ r, Closes (closeWindow k t .forced s)
        (settle k (drainIfDone k ((closeWindow k t .forced s).setStreamRun k r))) := fun r =>
      (Closes.of_timeline (s := closeWindow k t .forced s) (t := (closeWindow k t .forced s).setStreamRun k r) rfl).trans
        ((drainIfDone_closes k _).trans (settle_closes k _))
    refine Bool.eq_false_iff.mpr (fun w => ?_)
    have w := (later _).waiting t k w
    rw [closeWindow_done] at w
    cases w
  · exact Bool.eq_false_iff.mpr ‹_›

/-- After a fold of forced windows, none of them waits. -/
theorem forceWindows_done (t : GridTime) (l : List StreamNo) (s : State) (k : StreamNo)
    (h : k ∈ l ∨ waitingAt s t k = false) : waitingAt (l.foldl (forceWindow t) s) t k = false := by
  induction l generalizing s with
  | nil => exact h.resolve_left (by simp)
  | cons j l ih =>
    refine ih _ ?_
    rcases h with h | h
    · rcases List.mem_cons.mp h with rfl | h
      · exact .inr (forceWindow_done t s k)
      · exact .inl h
    · refine .inr (Bool.eq_false_iff.mpr (fun w => ?_))
      rw [(forceWindow_closes t s j).waiting t k w] at h
      cases h

theorem Sane.countForced {s : State} (h : Sane s) : Sane (countForced s) :=
  h.of rfl rfl h.within.notices h.within.requests h.within.passThrough h.within.received
    (centers_of rfl rfl h.within.answers) h.within.sets

theorem countForced_closes (s : State) : Closes s (countForced s) := .of_timeline rfl

theorem Sane.forceClose {s : State} (h : Sane s) (t : GridTime) : Sane (forceClose t s) := by
  unfold Machine.forceClose
  exact ((Sane.foldl (fun _ k h => h.forceWindow t k) allStreams h).retireIfDone t).countForced

theorem forceClose_closes (t : GridTime) (s : State) : Closes s (forceClose t s) := by
  unfold forceClose
  exact ((Closes.foldl (forceWindow_closes t) allStreams s).trans (retireIfDone_closes t _)).trans (countForced_closes _)

/-- A forced close takes the record of its instant out of the Timeline (R78). -/
theorem forceClose_gone (t : GridTime) (s : State) : recordAt (forceClose t s) t = none := by
  unfold forceClose
  rw [show ∀ u, recordAt (countForced u) t = recordAt u t from fun _ => rfl]
  have done : ∀ k, waitingAt (allStreams.foldl (forceWindow t) s) t k = false := fun k =>
    forceWindows_done t _ s k (.inl (by revert k; decide))
  generalize allStreams.foldl (forceWindow t) s = u at done
  rcases recordAt_retireIfDone t u t with h | ⟨-, h⟩
  · rw [h]
    cases e : recordAt u t with
    | none => rfl
    | some r =>
      have idle : r.waiting = false := by
        simp only [Record.waiting, List.any_eq_false]
        intro k _
        have := done k
        simpa [waitingAt, windowAt, e] using this
      unfold retireIfDone at h
      simp only [e, idle] at h
      rw [← h, recordAt_eq_none]
      intro q hq
      simpa using (List.mem_filter.mp hq).2
  · exact h

/-- A forced close makes no record. -/
theorem forceClose_none {s : State} {i : GridTime} (h : recordAt s i = none) (t : GridTime) :
    recordAt (forceClose t s) i = none := by
  cases e : recordAt (forceClose t s) i with
  | none => rfl
  | some r =>
    obtain ⟨q, e, -⟩ := (forceClose_closes t s).arrivals i r e
    rw [h] at e
    cases e

/-- A forced close of a record that is there makes room for one. -/
theorem forceClose_room {s : State} {t : GridTime} {r : Record} (found : recordAt s t = some r) :
    (forceClose t s).timeline.length < s.timeline.length := by
  have sub := (forceClose_closes t s).sub
  have le : (forceClose t s).timeline.length ≤ s.timeline.length := by
    simpa [instants] using sub.length_le
  refine Nat.lt_of_le_of_ne le (fun e => ?_)
  have same : instants (forceClose t s) = instants s := sub.eq_of_length (by simpa [instants] using e)
  have there : t ∈ instants s := List.mem_map.mpr ⟨r, recordAt_mem found, recordAt_instant found⟩
  rw [← same] at there
  obtain ⟨q, hq, e⟩ := List.mem_map.mp there
  exact recordAt_eq_none.mp (forceClose_gone t s) q hq e

/-! ## Creation, entry and placement -/

theorem Sane.createRecord {s : State} (h : Sane s) {t : GridTime} (new : recordAt s t = none)
    (room : s.timeline.length < 512) (c : CreationCause) : Sane (createRecord t c s) :=
  ⟨h.store.createRecord new c, by simp only [Machine.createRecord, length_insertRecord]; exact room, h.within.notices,
    h.within.requests, h.within.passThrough, h.within.received,
    (centers_of rfl rfl h.within.answers), h.within.sets⟩

theorem Sane.enterReport {s : State} (h : Sane s) {n : StationNo} {t : GridTime} {r : Record} (p : Report)
    (found : recordAt s t = some r) (new : arrivalOf r.arrivals n = none) (free : 0 < s.freeSlots) :
    Sane (enterReport n t p s) := by
  refine Sane.settleAll ⟨h.store.enter found new free (fun _ => rfl) (fun _ => rfl), ?_, h.within.notices,
    h.within.requests, h.within.passThrough, h.within.received,
    (centers_of rfl rfl h.within.answers), h.within.sets⟩
  simpa [Machine.modifyRecord] using h.within.records

theorem Sane.leaveAwaited {s : State} (h : Sane s) (n : StationNo) : Sane (leaveAwaited n s) := by
  refine Sane.settleAll ⟨h.store.map (fun _ => rfl) (fun _ => rfl), ?_, h.within.notices, h.within.requests,
    h.within.passThrough, h.within.received,
    (centers_of rfl rfl h.within.answers), h.within.sets⟩
  simpa using h.within.records

/-- The slot step, for a station without an entry in its record. -/
theorem Sane.placeInRecord {s : State} (h : Sane s) {n : StationNo} {t : GridTime} (p : Report)
    (new : ∀ r, recordAt s t = some r → arrivalOf r.arrivals n = none) (fuel : Nat) :
    Sane (placeInRecord n t p fuel s).1 := by
  induction fuel generalizing s with
  | zero => exact h
  | succ fuel ih =>
    unfold Machine.placeInRecord
    split
    · exact h
    · rename_i r found
      split
      · rename_i free
        dsimp only
        exact h.enterReport p found (new r found) free
      · split
        · exact h
        · split
          · dsimp only
            exact h.storeDiscard.settleAll
          · rename_i o _ _ _
            refine ih (h.forceClose o.instant) (fun r' e => ?_)
            obtain ⟨q, e, a⟩ := (forceClose_closes o.instant s).arrivals t r' e
            rw [a]; exact new q e

theorem recordAt_createRecord {s : State} {t : GridTime} (new : recordAt s t = none) (c : CreationCause) :
    recordAt (createRecord t c s) t = some (newRecord s t c) := by
  have instant : (newRecord s t c).instant = t := rfl
  unfold recordAt createRecord at *
  dsimp only
  generalize newRecord s t c = r at instant
  generalize s.timeline = l at new
  induction l with
  | nil => simp [insertRecord, instant]
  | cons a l ih =>
    rw [List.find?_cons] at new
    split at new
    · cases new
    · rename_i ne
      unfold insertRecord
      split
      · simp [instant]
      · rw [List.find?_cons, ne]; exact ih new

theorem Sane.createAndPlace {s : State} (h : Sane s) (n : StationNo) {t : GridTime} (p : Report)
    (new : recordAt s t = none) (room : s.timeline.length < 512) : Sane (createAndPlace n t p s).1 := by
  unfold Machine.createAndPlace
  split
  · refine (h.createRecord new room .arrival).placeInRecord p (fun r e => ?_) _
    rw [recordAt_createRecord new] at e
    cases e; rfl
  · exact h

/-- The first record is the one a search for its instant finds. -/
theorem recordAt_head {s : State} {o : Record} {l : List Record} (h : s.timeline = o :: l) :
    recordAt s o.instant = some o := by
  simp [recordAt, h]

theorem Sane.place {s : State} (h : Sane s) (n : StationNo) (t : GridTime) (p : Report) : Sane (place n t p s).1 := by
  unfold Machine.place
  split
  · rename_i r found
    split
    · exact h.countStation _ _
    · rename_i e
      refine h.placeInRecord p (fun r' e' => ?_) _
      rw [found] at e'
      cases e'
      simpa using e
  · rename_i new
    split
    · exact h
    · split
      · exact h.createAndPlace n p new ‹_›
      · split
        · exact h
        · rename_i o l first
          split
          · refine (h.forceClose _).createAndPlace n p ?_
              (Nat.lt_of_lt_of_le (forceClose_room (recordAt_head first)) h.within.records)
            exact forceClose_none new o.instant
          · exact h.storeDiscard

theorem Sane.placement {s : State} (h : Sane s) (n : StationNo) (t : GridTime) (p : Report) : Sane (placement n t p s) := by
  unfold Machine.placement
  split <;> first | exact (h.lateEffect n).place _ _ _ | exact h.place _ _ _

/-! ## Schedules, deadlines, starts, stops -/

theorem Sane.scheduleAt {s : State} (h : Sane s) (k : StreamNo) (t : GridTime) : Sane (scheduleAt k t s) := by
  simp only [Machine.scheduleAt]
  split
  · exact h
  · rename_i new
    split
    · exact (h.createRecord new ‹_› .schedule).settleAll
    · split
      · exact h
      · rename_i o l first
        split
        · split
          · refine (((h.forceClose o.instant).createRecord ?_
              (Nat.lt_of_lt_of_le (forceClose_room (recordAt_head first)) h.within.records)) .schedule).settleAll
            exact forceClose_none new o.instant
          · exact h.forceClose _
        · exact h.storeDiscard.setFloor _ _

theorem Sane.reachSchedule {s : State} (h : Sane s) (k : StreamNo) (t : GridTime) : Sane (reachSchedule k t s) :=
  (h.scheduleAt k t).setStreamRun _ _ ((h.scheduleAt k t).within.sets k)

theorem Sane.expireDeadline {s : State} (h : Sane s) (t : GridTime) (k : StreamNo) : Sane (expireDeadline t k s) := by
  unfold Machine.expireDeadline
  split
  · exact h
  · split
    · refine Sane.settle ?_ k
      exact h.modifyRecord t (fun _ => rfl) (fun _ => rfl)
    all_goals exact h

theorem Sane.reachAll {s : State} (h : Sane s) : Sane (reachAll s) := by
  have steps : ∀ (fuel : Nat) (s : State), Sane s → Sane (reach fuel s) := by
    intro fuel
    induction fuel with
    | zero => exact fun _ h => h
    | succ fuel ih =>
      intro s h
      unfold reach
      split
      · exact h
      · rename_i e he
        refine ih _ ?_
        rcases dueEvents_cases (earliestEvent_mem he) with ⟨t, k, e⟩ | ⟨t, k, e⟩ <;> rw [e]
        · exact h.expireDeadline _ _
        · exact h.reachSchedule _ _
  exact steps _ _ h

theorem Sane.startStream {s : State} (h : Sane s) (k : StreamNo) : Sane (startStream k s) := by
  refine Sane.foldl (fun s t h => ?_) _ (Sane.pushNotice (h.setStreamRun k _ ?_) _)
  · split
    · unfold openIn
      split
      · exact h
      · refine Sane.settle ?_ k
        exact h.modifyRecord t (fun _ => rfl) (fun _ => rfl)
    · exact h
  · exact h.within.sets k

theorem Sane.flushStream {s : State} (h : Sane s) (k : StreamNo) : Sane (flushStream s k) := by
  unfold Machine.flushStream
  split
  · exact h
  · exact h.closeAll _ _
  · exact (h.closeAll _ _).stopStream _ _

theorem Sane.stepStream {s : State} (h : Sane s) (t : GridTime) (k : StreamNo) : Sane (stepStream t s k) := by
  have stepped : Sane (stepWindows t k s) := by
    have floored := (h.closeAll k .stepped).setFloor k (laterOf ((Machine.closeAll k .stepped s).stream k).run.floor t)
    exact floored.setStreamRun _ _ (floored.within.sets k)
  unfold Machine.stepStream
  split
  · exact h
  · exact stepped
  · exact stepped.stopStream _ _

/-! ## The station machine and the intake -/

theorem Sane.moveStation {s : State} (h : Sane s) (n : StationNo) (new : StationState) (cause : StationCause)
    (r : StationRun) : Sane (moveStation n new cause r s) := by
  have moved := (h.setRun n { r with state := new }).pushNotice (.stationState n (s.station n).run.state new cause)
  unfold Machine.moveStation
  split <;> first | exact moved.completeDeferrals _ _ | exact moved

theorem Sane.testAcquired {s : State} (h : Sane s) (n : StationNo) : Sane (testAcquired n s) := by
  simp only [Machine.testAcquired]
  split <;> first | exact h.moveStation _ _ _ _ | exact h

theorem Sane.countGood {s : State} (h : Sane s) (n : StationNo) (t : GridTime) (suspect : Bool) :
    Sane (countGood n t suspect s) := (h.setRun _ _).testAcquired _

theorem Sane.beginAcquiring {s : State} (h : Sane s) (n : StationNo) (cause : StationCause) (t : GridTime)
    (suspect : Bool) : Sane (beginAcquiring n cause t suspect s) := (h.moveStation _ _ _ _).testAcquired _

theorem Sane.advanceStation {s : State} (h : Sane s) (n : StationNo) (t : GridTime) (suspect : Bool) :
    Sane (advanceStation n t suspect s) := by
  have reverted : Sane (revertShape n t suspect s) := by
    simp only [revertShape]
    split
    · exact h
    · exact (h.moveStation _ _ _ _).countGood _ _ _
    · exact h.moveStation _ _ _ _
    · exact h.moveStation _ _ _ _
  unfold Machine.advanceStation
  split
  · exact h
  · exact h.beginAcquiring _ _ _ _
  · exact h.countGood _ _ _
  · exact h.setRun _ _
  · exact h.setRun _ _
  · split <;> first | exact h.beginAcquiring _ _ _ _ | exact h.moveStation _ _ _ _
  · exact reverted
  · exact reverted

theorem Sane.takeGoodReport {s : State} (h : Sane s) (n : StationNo) (t : GridTime) (suspect short : Bool)
    (arrival : GridTime) : Sane (takeGoodReport n t suspect short arrival s) := by
  have first : Sane (if short then Machine.risingEdge n .short s else s) := by
    split <;> first | exact h.risingEdge _ _ | exact h
  have marked : ∀ {u : State}, Sane u → Sane (markSuspect n suspect u) := fun hu => by
    simp only [markSuspect]
    split <;> first | exact (hu.setRun _ _).risingEdge _ _ | exact hu.setRun _ _
  have delayed : ∀ {u : State} (d : Nat), Sane u → Sane (recordDelay n d u) := fun d hu => by
    unfold recordDelay
    split <;> first | exact hu | exact hu.setRun _ _
  exact (delayed _ (marked first)).advanceStation _ _ _

theorem Sane.acquireShape {s : State} (h : Sane s) (n : StationNo) (cause : StationCause) (x : Shape) :
    Sane (acquireShape n cause x s) := (h.setConfig _ _).moveStation _ _ _ _

theorem Sane.takeShapeChange {s : State} (h : Sane s) (n : StationNo) (x : Shape) : Sane (takeShapeChange n x s) := by
  unfold Machine.takeShapeChange
  split
  · exact h.moveStation _ _ _ _
  · exact h.moveStation _ _ _ _
  · exact (h.moveStation _ _ _ _).leaveAwaited _
  · simp only [confirmShape]
    split
    · split
      · exact h.setRun _ _
      · split <;> first | exact h.acquireShape _ _ _ | exact h.moveStation _ _ _ _
    · exact h.setRun _ _
  · simp only [heldShape]
    split <;> first | exact h.setRun _ _ | exact h.moveStation _ _ _ _
  all_goals exact h

theorem Sane.acquisitionExpired {s : State} (h : Sane s) (n : StationNo) : Sane (acquisitionExpired n s) := by
  unfold Machine.acquisitionExpired
  split <;> first | exact h.moveStation _ _ _ _ | exact h

theorem Sane.silenceExpired {s : State} (h : Sane s) (n : StationNo) : Sane (silenceExpired n s) := by
  unfold Machine.silenceExpired
  split
  · exact ((h.moveStation _ _ _ _).risingEdge _ _).leaveAwaited _
  · exact h.moveStation _ _ _ _
  · exact h.moveStation _ _ _ _
  · exact h.moveStation _ _ _ _
  all_goals exact h

theorem Sane.takeReport {s : State} (h : Sane s) (l : LineId) (f : QueuedFrame) : Sane (takeReport l f s) := by
  unfold Machine.takeReport
  split
  · exact h
  · split
    · exact h.unknownCodeEdge _ _
    · simp only [takeKnown]
      split
      · exact h.takeShapeChange _ _
      · split
        · exact (h.countStation _ _).risingEdge _ _
        · unfold takeOnGrid
          split
          · exact h.countStation _ _
          · dsimp only
            split <;> first | exact (h.takeGoodReport _ _ _ _ _).placement _ _ _ | exact h.takeGoodReport _ _ _ _ _

theorem Sane.intake {s : State} (h : Sane s) : Sane (intake s) := by
  unfold Machine.intake
  split
  · exact h
  · rename_i l _
    split
    · exact h
    · rename_i f rest e
      refine Sane.takeReport ?_ l f
      have shorter : rest.length ≤ 32 := by
        have := h.within.received l
        rw [e, List.length_cons] at this
        omega
      have popped := h.setLine l { s.line l with queue := rest } shorter
      exact popped.of rfl rfl popped.within.notices popped.within.requests popped.within.passThrough popped.within.received
        (centers_of rfl rfl popped.within.answers) popped.within.sets

/-! ## The egress -/

theorem Sane.setTx {s : State} (h : Sane s) (c : CenterId) (t : Option Transmission) : Sane (setTx c t s) :=
  h.setCenter _ _ (h.within.answers c)

theorem Sane.departNotice {s : State} (h : Sane s) (m : Notice) : Sane (departNotice m s) := by
  unfold Machine.departNotice
  split
  · split
    · split <;> exact h.putLatch _ _ _
    · exact h
  · split <;> first | exact h.clearUnknownCode _ | exact h
  all_goals exact h

theorem Sane.beginNotices {s : State} (h : Sane s) (c : CenterId) : Sane (beginNotices c s) := by
  refine Sane.setTx (Sane.foldl (fun _ m h => h.departNotice m) _ ?_) c _
  refine h.of rfl rfl ?_ h.within.requests h.within.passThrough h.within.received
    (centers_of rfl rfl h.within.answers) h.within.sets
  have := h.within.notices
  simp only [List.length_drop]
  omega

theorem Sane.choose {s : State} (h : Sane s) (c : CenterId) : Sane (choose c s) := by
  unfold Machine.choose
  split
  · unfold chooseSource
    split
    · rename_i a rest e
      refine h.setCenter _ _ ?_
      have := h.within.answers c
      rw [e, List.length_cons] at this
      exact Nat.le_of_succ_le this
    · split
      · split <;> first | exact h.setTx _ _ | exact h
      · unfold chooseLast
        split
        · exact h.beginNotices c
        · split
          · split
            · rename_i b rest e
              refine Sane.setTx ?_ c _
              refine h.of rfl rfl h.within.notices h.within.requests ?_ h.within.received
                (centers_of rfl rfl h.within.answers) h.within.sets
              have := h.within.passThrough
              rw [e, List.length_cons] at this
              exact Nat.le_of_succ_le this
            · exact h
          · exact h
  · exact h

theorem Sane.finish {s : State} (h : Sane s) : Sane (finish s) := (h.choose _).choose _

theorem Sane.frameComplete {s : State} (h : Sane s) (c : CenterId) : Sane (frameComplete c s) := by
  unfold Machine.frameComplete
  split <;> first | exact h.setTx _ _ | exact h

theorem Sane.fragmentComplete {s : State} (h : Sane s) (c : CenterId) : Sane (fragmentComplete c s) := by
  unfold Machine.fragmentComplete
  split
  · rename_i k _ _ _ _
    split
    · rename_i a rest e
      split
      · exact h.setTx _ _
      · refine (h.setStreamRun _ _ ?_).setTx _ _
        have := h.within.sets k
        rw [e, List.length_cons] at this
        exact Nat.le_of_succ_le this
    · exact h.setTx _ _
  all_goals exact h

theorem Sane.abandon {s : State} (h : Sane s) (c : CenterId) : Sane (abandon c s) := by
  unfold Machine.abandon
  split
  · rename_i k _ _ _ _
    split
    · rename_i a rest e
      refine ((h.setTx c none).setStreamRun _ _ ?_).pushNotice _
      have := h.within.sets k
      rw [e, List.length_cons] at this
      exact Nat.le_of_succ_le this
    · exact h.setTx _ _
  all_goals first | exact h.setTx _ _ | exact h

end Sys2Proof.Machine
end

