-- ==== Sys2Proof/Laws/Closes.lean ====
section
/-! SUPPORT. What a cascade, a direct close and a placement with forced closes come to: the windows they close one after another,
what they leave, and that the fuel of a placement does not matter (R30, R79, R106, R108, R109). -/

namespace Sys2Proof.Machine

set_option Elab.async false

/-! ## Instants of an ordered Timeline -/

theorem instants_nodup {s : State} (h : Ordered s.timeline) : (instants s).Nodup := by
  unfold instants
  rw [List.Nodup, List.pairwise_map]
  exact h.imp ne_of_earlier

/-- In a Timeline whose instants differ a record is found under its instant. -/
theorem recordAt_of_mem {s : State} (h : (instants s).Nodup) {r : Record} (mem : r ∈ s.timeline) :
    recordAt s r.instant = some r := by
  unfold instants at h
  unfold recordAt
  generalize s.timeline = l at h mem
  induction l with
  | nil => cases mem
  | cons a l ih =>
    rw [List.map_cons, List.nodup_cons] at h
    rcases List.mem_cons.mp mem with rfl | mem
    · simp
    · have : (a.instant == r.instant) = false := by
        simpa using fun e : a.instant = r.instant => h.1 (e ▸ List.mem_map.mpr ⟨r, mem, rfl⟩)
      rw [List.find?_cons, this]
      exact ih h.2 mem

/-- The window of a record waits exactly when the window of its instant does. -/
theorem waitingAt_of_mem {s : State} (h : (instants s).Nodup) {r : Record} (mem : r ∈ s.timeline) (k : StreamNo) :
    waitingAt s r.instant k = r.windows[k].waiting := by
  simp [waitingAt, windowAt, recordAt_of_mem h mem]

theorem mem_instants_of_waiting {s : State} {t : GridTime} {k : StreamNo} (h : waitingAt s t k = true) : t ∈ instants s := by
  unfold waitingAt windowAt at h
  cases e : recordAt s t with
  | none => simp [e] at h
  | some r => exact List.mem_map.mpr ⟨r, recordAt_mem e, recordAt_instant e⟩

/-- A stream has a waiting window exactly when one of its instants waits. -/
theorem hasWaiting_eq_false {s : State} (h : (instants s).Nodup) {k : StreamNo} :
    hasWaiting s k = false ↔ ∀ t, waitingAt s t k = false := by
  refine ⟨fun w t => Bool.eq_false_iff.mpr fun e => ?_, fun w => ?_⟩
  · obtain ⟨r, mem, rfl⟩ := List.mem_map.mp (mem_instants_of_waiting e)
    rw [waitingAt_of_mem h mem] at e
    exact Bool.eq_false_iff.mp w (List.any_eq_true.mpr ⟨r, mem, e⟩)
  · refine List.any_eq_false.mpr fun r mem => ?_
    rw [← waitingAt_of_mem h mem, w]
    exact Bool.false_ne_true

theorem Closes.nodup {s t : State} (h : Closes s t) (n : (instants s).Nodup) : (instants t).Nodup := h.sub.nodup n

/-- A filter whose elements a sublist keeps gives the same on both, where no element stands twice. -/
theorem filter_of_sublist {α : Type} {l m : List α} (h : l.Sublist m) (n : m.Nodup) {p : α → Bool}
    (keeps : ∀ a ∈ m, p a = true → a ∈ l) : l.filter p = m.filter p := by
  induction h with
  | slnil => rfl
  | cons a h ih =>
    rw [List.nodup_cons] at n
    rw [List.filter_cons_of_neg (fun e => n.1 (h.subset (keeps a List.mem_cons_self e)))]
    exact ih n.2 fun b hb => keeps b (List.mem_cons_of_mem _ hb)
  | cons_cons a h ih =>
    rw [List.nodup_cons] at n
    rw [List.filter_cons, List.filter_cons, ih n.2 fun b hb e => ?_]
    exact (List.mem_cons.mp (keeps b (List.mem_cons_of_mem _ hb) e)).resolve_left fun h => n.1 (h ▸ hb)

/-- Among the instants of the earlier Timeline, those that still wait are those of the later one. -/
theorem Closes.waiting_instants {s t : State} (h : Closes s t) (n : (instants s).Nodup) (k : StreamNo) :
    (instants t).filter (waitingAt t · k) = (instants s).filter (waitingAt t · k) :=
  filter_of_sublist h.sub n fun _ _ e => mem_instants_of_waiting e

/-! ## Cascades (R106, R108) -/

/-- One turn of a cascade: the close and the end of a drain. -/
theorem closed_drained_closes (k : StreamNo) (t : GridTime) (c : CloseCause) (s : State) :
    Closes s (drainIfDone k (closeWindow k t c s)) := (closeWindow_closes k t c s).trans (drainIfDone_closes k _)

/-- A cascade looks at waiting windows only: instants that do not wait may be left out. -/
theorem settleFrom_filter (k : StreamNo) {p : GridTime → Bool} (l : List GridTime) (s : State)
    (h : ∀ i, waitingAt s i k = true → p i = true) : settleFrom k l s = settleFrom k (l.filter p) s := by
  induction l generalizing s with
  | nil => rfl
  | cons t l ih =>
    by_cases e : p t = true
    · rw [List.filter_cons_of_pos e, settleFrom, settleFrom]
      split
      · exact ih s h
      · split
        · exact ih _ fun i w => h i ((closed_drained_closes k t _ s).waiting i k w)
        · rfl
        · exact ih s h
        · exact ih s h
    · rw [List.filter_cons_of_neg e, settleFrom]
      split
      · exact ih s h
      · rename_i x at_
        split <;> first | exact ih s h | (rename_i st; exact absurd (h t (by simp [waitingAt, at_, Window.waiting, st])) e)

/-- The instants of a stream's waiting windows, earliest first. -/
def waitingInstants (k : StreamNo) (s : State) : List GridTime := (instants s).filter (waitingAt s · k)

theorem settle_eq (k : StreamNo) (s : State) : settle k s = settleFrom k (waitingInstants k s) s :=
  settleFrom_filter k _ s fun _ w => w

/-- Where nothing waits a cascade does nothing. -/
theorem settle_idle {k : StreamNo} {s : State} (h : waitingInstants k s = []) : settle k s = s := by
  rw [settle_eq, h]; rfl

/-- An OPEN window holds back every later one (R108). -/
theorem settle_open {k : StreamNo} {s : State} {t : GridTime} {l : List GridTime} {w : Window}
    (first : waitingInstants k s = t :: l) (at_ : windowAt s t k = some w) (opened : w.state = .opened) : settle k s = s := by
  rw [settle_eq, first, settleFrom]
  simp [at_, opened]

/-- The earliest window is READY: it closes, and the cascade goes on (R106, R108). -/
theorem settle_ready {k : StreamNo} {s : State} (n : (instants s).Nodup) {t : GridTime} {l : List GridTime} {w : Window}
    {why : ReadyCause} (first : waitingInstants k s = t :: l) (at_ : windowAt s t k = some w) (ready : w.state = .ready why) :
    settle k s = settle k (drainIfDone k (closeWindow k t why.close s)) := by
  have c := closed_drained_closes k t why.close s
  have gone : waitingAt (drainIfDone k (closeWindow k t why.close s)) t k = false :=
    Bool.eq_false_iff.mpr fun w => absurd ((drainIfDone_closes k _).waiting t k w) (by simp [closeWindow_done])
  have rest : waitingInstants k (drainIfDone k (closeWindow k t why.close s)) =
      l.filter (waitingAt (drainIfDone k (closeWindow k t why.close s)) · k) := by
    rw [waitingInstants, c.waiting_instants n k]
    have sub : (instants s).filter (waitingAt (drainIfDone k (closeWindow k t why.close s)) · k) =
        (waitingInstants k s).filter (waitingAt (drainIfDone k (closeWindow k t why.close s)) · k) := by
      rw [waitingInstants, List.filter_filter]
      refine List.filter_congr fun i _ => ?_
      have := c.waiting i k
      cases e : waitingAt (drainIfDone k (closeWindow k t why.close s)) i k <;> simp_all
    rw [sub, first, List.filter_cons_of_neg (by simp [gone])]
  rw [settle_eq, first, settleFrom]
  simp only [at_, ready]
  rw [settle_eq, rest]
  exact settleFrom_filter k l _ fun _ w => w

/-! ## Direct closes (R109) -/

/-- A close leaves every other record as it was. -/
theorem recordAt_closeWindow {k : StreamNo} {t i : GridTime} (c : CloseCause) (s : State) (h : i ≠ t) :
    recordAt (closeWindow k t c s) i = recordAt s i := by
  unfold closeWindow
  split
  · rfl
  · rename_i r _
    rcases recordAt_retireIfDone t (countMissing r.windows[k].awaited (setFloor k t (buildSet k r r.windows[k] c
        (modifyRecord t (fun q => q.setWindow k { r.windows[k] with state := .closed c }) s)))) i with e | ⟨e, -⟩
    · rw [e]
      refine Eq.trans ?_ ((recordAt_modifyRecord (f := fun q => q.setWindow k { r.windows[k] with state := .closed c })
        (fun _ => rfl) s i).trans (if_neg h))
      unfold recordAt
      rw [countMissing_timeline]
      simp [setFloor, buildSet, makeRoom_timeline]
    · exact absurd e h

theorem waitingAt_closeWindow {k j : StreamNo} {t i : GridTime} (c : CloseCause) (s : State) (h : i ≠ t) :
    waitingAt (closeWindow k t c s) i j = waitingAt s i j := by
  simp only [waitingAt, windowAt, recordAt_closeWindow c s h]

/-- A direct close closes the stream's waiting windows one after another, earliest first. -/
theorem closeAll_eq {k : StreamNo} (c : CloseCause) {s : State} (n : (instants s).Nodup) :
    closeAll k c s = (waitingInstants k s).foldl (fun t i => closeWindow k i c t) s := by
  unfold closeAll waitingInstants
  have from_ : ∀ (l : List GridTime) (u : State), l.Nodup → (∀ i ∈ l, waitingAt u i k = waitingAt s i k) →
      l.foldl (fun s t => if waitingAt s t k then closeWindow k t c s else s) u =
        (l.filter (waitingAt s · k)).foldl (fun t i => closeWindow k i c t) u := by
    intro l
    induction l with
    | nil => intros; rfl
    | cons t l ih =>
      intro u n h
      rw [List.nodup_cons] at n
      rw [List.foldl_cons, List.filter_cons, h t List.mem_cons_self]
      split
      · rw [List.foldl_cons]
        refine ih _ n.2 fun i hi => ?_
        rw [waitingAt_closeWindow c u (fun e : i = t => n.1 (e ▸ hi)), h i (List.mem_cons_of_mem _ hi)]
      · exact ih u n.2 fun i hi => h i (List.mem_cons_of_mem _ hi)
  exact from_ _ s n fun _ _ => rfl

theorem closeAll_closes (k : StreamNo) (c : CloseCause) (s : State) : Closes s (closeAll k c s) :=
  Closes.foldl (fun s t => by split <;> first | exact closeWindow_closes _ _ _ _ | exact .refl s) _ s

/-- After a direct close no window of the stream waits. -/
theorem closeAll_done (k : StreamNo) (c : CloseCause) (s : State) (t : GridTime) : waitingAt (closeAll k c s) t k = false := by
  have from_ : ∀ (l : List GridTime) (u : State), t ∈ l ∨ waitingAt u t k = false →
      waitingAt (l.foldl (fun s t => if waitingAt s t k then closeWindow k t c s else s) u) t k = false := by
    intro l
    induction l with
    | nil => exact fun u h => h.resolve_left (by simp)
    | cons i l ih =>
      intro u h
      refine ih _ ?_
      by_cases e : t = i
      · subst e
        refine .inr ?_
        dsimp only
        split
        · exact closeWindow_done k t c u
        · exact Bool.eq_false_iff.mpr ‹_›
      · refine h.imp (fun m => (List.mem_cons.mp m).resolve_left e) fun w => ?_
        dsimp only
        split
        · rw [waitingAt_closeWindow c u e, w]
        · exact w
  refine from_ _ s ?_
  cases e : waitingAt s t k with
  | true => exact .inl (mem_instants_of_waiting e)
  | false => exact .inr rfl

theorem closeAll_hasWaiting {k : StreamNo} (c : CloseCause) {s : State} (n : (instants s).Nodup) :
    hasWaiting (closeAll k c s) k = false :=
  (hasWaiting_eq_false ((closeAll_closes k c s).nodup n)).mpr (closeAll_done k c s)

/-! ## Retirement (R75) -/

/-- A record that a retirement leaves at its instant has a waiting window. -/
theorem retireIfDone_waiting {t : GridTime} {s : State} {r : Record} (h : recordAt (retireIfDone t s) t = some r) :
    r.waiting = true := by
  unfold retireIfDone at h
  split at h
  · rename_i none_; rw [none_] at h; cases h
  · rename_i q found
    split at h
    · rw [found] at h; cases h; assumption
    · exact absurd (recordAt_instant h) (by simpa using (List.mem_filter.mp (recordAt_mem h)).2)

/-- Where every record waits for something, that stays so through a close. -/
theorem closeWindow_waiting {k : StreamNo} {t : GridTime} (c : CloseCause) {s : State} (n : (instants s).Nodup)
    (h : ∀ r ∈ s.timeline, r.waiting = true) : ∀ r ∈ (closeWindow k t c s).timeline, r.waiting = true := by
  intro r mem
  have at_ := recordAt_of_mem ((closeWindow_closes k t c s).nodup n) mem
  by_cases e : r.instant = t
  · rw [e] at at_
    unfold closeWindow at at_
    split at at_
    · exact h r (recordAt_mem at_)
    · exact retireIfDone_waiting at_
  · rw [recordAt_closeWindow c s e] at at_
    exact h r (recordAt_mem at_)

theorem closeAll_waiting {k : StreamNo} (c : CloseCause) {s : State} (n : (instants s).Nodup)
    (h : ∀ r ∈ s.timeline, r.waiting = true) : ∀ r ∈ (closeAll k c s).timeline, r.waiting = true := by
  have from_ : ∀ (l : List GridTime) (u : State), (instants u).Nodup → (∀ r ∈ u.timeline, r.waiting = true) →
      ∀ r ∈ (l.foldl (fun s t => if waitingAt s t k then closeWindow k t c s else s) u).timeline, r.waiting = true := by
    intro l
    induction l with
    | nil => exact fun u _ h => h
    | cons t l ih =>
      intro u n h
      rw [List.foldl_cons]
      split
      · exact ih _ ((closeWindow_closes k t c u).nodup n) (closeWindow_waiting c n h)
      · exact ih u n h
  exact from_ _ s n h

/-! ## The slots of a close -/

theorem StoreOk.closeWindow {s : State} (h : StoreOk s) (k : StreamNo) (t : GridTime) (c : CloseCause) :
    StoreOk (closeWindow k t c s) := by
  unfold Machine.closeWindow
  split
  · exact h
  · rename_i r _
    refine StoreOk.retireIfDone (StoreOk.congr (h.modifyRecord t (f := fun q => q.setWindow k { r.windows[k] with
      state := .closed c }) (fun _ => rfl) (fun _ => rfl)) ?_ ?_) t
    · rw [countMissing_timeline]; simp [setFloor, buildSet, makeRoom_timeline]
    · rw [countMissing_freeSlots]; simp [setFloor, buildSet, makeRoom_freeSlots]

theorem StoreOk.closeAll {s : State} (h : StoreOk s) (k : StreamNo) (c : CloseCause) : StoreOk (closeAll k c s) := by
  unfold Machine.closeAll
  generalize instants s = l
  induction l generalizing s with
  | nil => exact h
  | cons t l ih =>
    rw [List.foldl_cons]
    split
    · exact ih (h.closeWindow k t c)
    · exact ih h

/-! ## The slot step (R30, R79) -/

/-- Any fuel above the number of records serves a slot step. -/
theorem placeInRecord_fuel (n : StationNo) (t : GridTime) (p : Report) (m l : Nat) (s : State) (hm : s.timeline.length < m)
    (hl : s.timeline.length < l) : placeInRecord n t p m s = placeInRecord n t p l s := by
  induction m generalizing l s with
  | zero => omega
  | succ m ih =>
    cases l with
    | zero => omega
    | succ l =>
      unfold placeInRecord
      split
      · rfl
      · split
        · rfl
        · split
          · rfl
          · rename_i o _ tl
            split
            · rfl
            · have room := forceClose_room (recordAt_head tl)
              exact ih _ _ (by omega) (by omega)

/-- A slot step does not look at the fuel that a placement gives it. -/
theorem place_found {n : StationNo} {t : GridTime} {p : Report} {s : State} {r : Record} (h : recordAt s t = some r)
    (new : arrivalOf r.arrivals n = none) {m : Nat} (hm : s.timeline.length < m) : place n t p s = placeInRecord n t p m s := by
  simp only [place, h, new]
  exact placeInRecord_fuel _ _ _ _ _ _ (by omega) hm

end Sys2Proof.Machine
end

