-- ==== Sys2Proof/Laws/CodeMap.lean ====
section
/-! SUPPORT. The Code Map: lookup under insertion and removal, the order of the entries, the map that RESET_WARM rebuilds, and the
steps that keep CodeMapOk because they are steady. -/

namespace Sys2Proof.Machine

set_option Elab.async false

/-- The entries have strictly rising codes. -/
abbrev Rising (m : List (Nat × StationNo)) : Prop := m.Pairwise (fun a b => a.1 < b.1)

theorem codeLookup_nil (code : Nat) : codeLookup [] code = none := rfl

theorem codeLookup_cons (e : Nat × StationNo) (m : List (Nat × StationNo)) (code : Nat) :
    codeLookup (e :: m) code = if e.1 = code then some e.2 else codeLookup m code := by
  unfold codeLookup
  rw [List.find?_cons]
  by_cases h : e.1 = code
  · simp [h]
  · have h' : (e.1 == code) = false := by simpa using h
    simp [h, h']

/-- A code below every entry is not in the map. -/
theorem codeLookup_below {m : List (Nat × StationNo)} {code : Nat} (h : ∀ e ∈ m, code < e.1) : codeLookup m code = none := by
  induction m with
  | nil => rfl
  | cons e m ih =>
    rw [codeLookup_cons, if_neg (Nat.ne_of_gt (h e (List.mem_cons_self ..)))]
    exact ih fun q hq => h q (List.mem_cons_of_mem _ hq)

/-- What an insertion holds: the entry, and entries it held before. -/
theorem mem_codeInsert {code : Nat} {n : StationNo} {m : List (Nat × StationNo)} {e : Nat × StationNo}
    (h : e ∈ codeInsert code n m) : e = (code, n) ∨ e ∈ m := by
  induction m with
  | nil => exact .inl (List.mem_singleton.mp h)
  | cons q m ih =>
    unfold codeInsert at h
    split at h
    · exact List.mem_cons.mp h
    · split at h
      · exact (List.mem_cons.mp h).imp_right (List.mem_cons_of_mem _)
      · rcases List.mem_cons.mp h with rfl | h
        · exact .inr (List.mem_cons_self ..)
        · exact (ih h).imp_right (List.mem_cons_of_mem _)

theorem codeInsert_rising (code : Nat) (n : StationNo) {m : List (Nat × StationNo)} (h : Rising m) :
    Rising (codeInsert code n m) := by
  induction m with
  | nil => exact List.pairwise_singleton _ _
  | cons q m ih =>
    obtain ⟨above, rest⟩ := List.pairwise_cons.mp h
    unfold codeInsert
    split
    case isTrue low =>
      refine List.pairwise_cons.mpr ⟨fun e he => ?_, h⟩
      rcases List.mem_cons.mp he with rfl | he
      · exact low
      · exact Nat.lt_trans low (above e he)
    case isFalse low =>
      split
      case isTrue same => exact List.pairwise_cons.mpr ⟨fun e he => same ▸ above e he, rest⟩
      case isFalse other =>
        refine List.pairwise_cons.mpr ⟨fun e he => ?_, ih rest⟩
        rcases mem_codeInsert he with rfl | he
        · show q.1 < code
          omega
        · exact above e he

/-- An insertion answers its station for its code and leaves every other code. -/
theorem codeLookup_codeInsert (code : Nat) (n : StationNo) (m : List (Nat × StationNo)) (c : Nat) :
    codeLookup (codeInsert code n m) c = if code = c then some n else codeLookup m c := by
  induction m with
  | nil => rw [codeInsert, codeLookup_cons]
  | cons q m ih =>
    unfold codeInsert
    split
    · rw [codeLookup_cons]
    · split
      case isTrue same =>
        rw [codeLookup_cons, codeLookup_cons, ← same]
        split <;> rfl
      case isFalse other =>
        rw [codeLookup_cons, ih, codeLookup_cons]
        by_cases h : q.1 = c
        · rw [if_pos h, if_pos h, if_neg (fun g => other (g.trans h.symm))]
        · rw [if_neg h, if_neg h]

theorem codeRemove_rising (code : Nat) (n : StationNo) {m : List (Nat × StationNo)} (h : Rising m) :
    Rising (codeRemove code n m) := h.sublist List.filter_sublist

/-- A removal takes away its own entry, and in a rising map no other. -/
theorem codeLookup_codeRemove (code : Nat) (n : StationNo) {m : List (Nat × StationNo)} (h : Rising m) (c : Nat)
    (k : StationNo) :
    codeLookup (codeRemove code n m) c = some k ↔ codeLookup m c = some k ∧ ¬(code = c ∧ n = k) := by
  induction m with
  | nil => simp [codeRemove, codeLookup]
  | cons q m ih =>
    obtain ⟨above, rest⟩ := List.pairwise_cons.mp h
    have tail := ih rest
    by_cases gone : q.1 = code ∧ q.2 = n
    · have drop : codeRemove code n (q :: m) = codeRemove code n m := by
        simp [codeRemove, gone.1, gone.2]
      rw [drop, tail, codeLookup_cons]
      by_cases same : q.1 = c
      · have none_left : codeLookup m c = none := codeLookup_below fun e he => same ▸ above e he
        rw [if_pos same, none_left]
        constructor
        · rintro ⟨g, _⟩
          cases g
        · rintro ⟨g, other⟩
          exact absurd ⟨gone.1.symm.trans same, gone.2.symm.trans (Option.some.inj g)⟩ other
      · rw [if_neg same]
    · have keep : codeRemove code n (q :: m) = q :: codeRemove code n m := by
        have : (!(q.1 == code && q.2 == n)) = true := by
          cases hc : (q.1 == code && q.2 == n)
          · rfl
          · rw [Bool.and_eq_true, beq_iff_eq, beq_iff_eq] at hc
            exact absurd hc gone
        simp only [codeRemove, List.filter_cons, this, if_true]
      rw [keep, codeLookup_cons, codeLookup_cons]
      by_cases same : q.1 = c
      · rw [if_pos same, if_pos same]
        refine ⟨fun h => ⟨h, fun g => gone ⟨same.trans g.1.symm, ?_⟩⟩, fun h => h.1⟩
        exact (Option.some.inj h).trans g.2.symm
      · rw [if_neg same, if_neg same, tail]

/-- The folds of `codesOfEnabled`, over any list of stations. -/
theorem codesOf_rising (v : Vector Station 1024) (l : List StationNo) {m : List (Nat × StationNo)} (h : Rising m) :
    Rising (l.foldl (fun m n => if v[n].config.enable then codeInsert v[n].config.code n m else m) m) := by
  induction l generalizing m with
  | nil => exact h
  | cons n l ih =>
    refine ih ?_
    dsimp only
    split
    · exact codeInsert_rising _ _ h
    · exact h

theorem codesOfEnabled_rising (v : Vector Station 1024) : Rising (codesOfEnabled v) := codesOf_rising v _ .nil

/-- Over stations whose enabled codes are distinct, the fold answers the enabled stations of the list, then what was there. -/
theorem codesOf_lookup (v : Vector Station 1024)
    (distinct : ∀ a b : StationNo, v[a].config.enable = true → v[b].config.enable = true →
      v[a].config.code = v[b].config.code → a = b)
    (l : List StationNo) (m : List (Nat × StationNo)) (code : Nat) (n : StationNo)
    (inside : ∀ k, codeLookup m code = some k → v[k].config.enable = true ∧ v[k].config.code = code) :
    codeLookup (l.foldl (fun m n => if v[n].config.enable then codeInsert v[n].config.code n m else m) m) code = some n ↔
      (n ∈ l ∧ v[n].config.enable = true ∧ v[n].config.code = code) ∨ codeLookup m code = some n := by
  induction l generalizing m with
  | nil => simp
  | cons q l ih =>
    rw [List.foldl_cons, ih]
    · by_cases on : v[q].config.enable = true
      · rw [if_pos on, codeLookup_codeInsert]
        by_cases same : v[q].config.code = code
        · rw [if_pos same]
          constructor
          · rintro (h | h)
            · exact .inl ⟨List.mem_cons_of_mem _ h.1, h.2⟩
            · obtain rfl := Option.some.inj h
              exact .inl ⟨List.mem_cons_self .., on, same⟩
          · rintro (h | h)
            · exact .inr (congrArg some (distinct q n on h.2.1 (same.trans h.2.2.symm)))
            · have := inside n h
              exact .inr (congrArg some (distinct q n on this.1 (same.trans this.2.symm)))
        · rw [if_neg same]
          refine or_congr_left (and_congr_left fun h => ?_)
          rw [List.mem_cons]
          exact ⟨.inr, fun g => g.resolve_left fun e => same (e ▸ h.2)⟩
      · rw [if_neg on]
        refine or_congr_left (and_congr_left fun h => ?_)
        rw [List.mem_cons]
        exact ⟨.inr, fun g => g.resolve_left fun e => on (e ▸ h.1)⟩
    · intro k hk
      split at hk
      case isTrue on =>
        rw [codeLookup_codeInsert] at hk
        split at hk
        case isTrue same =>
          obtain rfl := Option.some.inj hk
          exact ⟨on, same⟩
        case isFalse => exact inside k hk
      case isFalse => exact inside k hk

/-- The rebuilt map answers exactly the enabled stations, when their codes are distinct. -/
theorem codesOfEnabled_lookup (v : Vector Station 1024)
    (distinct : ∀ a b : StationNo, v[a].config.enable = true → v[b].config.enable = true →
      v[a].config.code = v[b].config.code → a = b)
    (code : Nat) (n : StationNo) :
    codeLookup (codesOfEnabled v) code = some n ↔ v[n].config.enable = true ∧ v[n].config.code = code := by
  rw [codesOfEnabled, codesOf_lookup v distinct _ _ _ _ (fun k h => by cases h)]
  simp [codeLookup_nil, List.mem_finRange]

/-- In a state whose Code Map is right, enabled stations have distinct codes. -/
theorem CodeMapOk.distinct {s : State} (h : CodeMapOk s) (a b : StationNo) (ha : (s.station a).config.enable = true)
    (hb : (s.station b).config.enable = true) (same : (s.station a).config.code = (s.station b).config.code) : a = b := by
  have fa := (h.lookup (s.station a).config.code a).mpr ⟨(h.enable a).mp ha, rfl⟩
  have fb := (h.lookup (s.station a).config.code b).mpr ⟨(h.enable b).mp hb, same.symm⟩
  exact Option.some.inj (fa.symm.trans fb)

/-- A steady step keeps the Code Map right. -/
theorem CodeMapOk.of_steady {s t : State} (h : CodeMapOk s) (g : Steady s t) : CodeMapOk t :=
  ⟨fun n => by rw [g.enable, h.enable, ne_eq, ne_eq, g.disabled n],
    by rw [g.codeMap]; exact h.sorted,
    fun code n => by rw [g.codeMap, h.lookup, ne_eq, ne_eq, g.disabled n, g.code]⟩

end Sys2Proof.Machine
end

