-- ==== Sys2Proof/Laws/Deferrals.lean ====
section
/-! SUPPORT. What the end of a deferral slot and the completion of a station's deferrals come to (R61, R189). -/

namespace Sys2Proof.Machine

set_option Elab.async false

/-- The end of a slot that a station holds: the answer is placed, the slot is free, and it leaves the station's deferrals. -/
theorem endSlot_station_held {d : SlotNo} {n : StationNo} {h : HeldAnswer} {s : State} (held : s.slot d = some h)
    (op : h.op = .station n) (result : Result) (payload : List Byte) : endSlot d result payload s =
      ((placeAnswer h.link ⟨h.source, h.tag, h.kind, h.target, result, payload⟩ s).setSlot d none).setRun n
        { (s.station n).run with deferrals := (s.station n).run.deferrals.filter (· ≠ d) } := by
  have same : ∀ l : List SlotNo, l.filter (fun e => !(e == d)) = l.filter (· ≠ d) := fun l => by
    congr 1; funext e; by_cases x : e = d <;> simp [x]
  have kept : ∀ a : Answer, ((placeAnswer h.link a s).setSlot d none).station n = s.station n := fun a => by
    show (placeAnswer h.link a s).station n = s.station n
    simp
  simp only [endSlot, held, op, forgetSlot, kept, same]

/-- Run states that differ in their deferrals only are equal when these are. -/
theorem run_deferrals (r : StationRun) {l m : List SlotNo} (h : l = m) :
    ({ r with deferrals := l } : StationRun) = { r with deferrals := m } := by rw [h]

/-- The slots of a station end one after another: they leave its deferrals and are free, and no other slot changes. -/
theorem endSlots_station_held (n : StationNo) (result : Result) (l : List SlotNo) (s : State)
    (held : ∀ d ∈ l, s.slot d = none ∧ d ∉ (s.station n).run.deferrals ∨ ∃ h, s.slot d = some h ∧ h.op = .station n) :
    ((l.foldl (fun t d => endSlot d result [] t) s).station n).run = { (s.station n).run with
        deferrals := (s.station n).run.deferrals.filter (· ∉ l) } ∧
      ∀ d, (l.foldl (fun t d => endSlot d result [] t) s).slot d = if d ∈ l then none else s.slot d := by
  induction l generalizing s with
  | nil =>
    have all : (s.station n).run.deferrals.filter (· ∉ ([] : List SlotNo)) = (s.station n).run.deferrals := by simp
    exact ⟨by rw [List.foldl_nil, all], by simp⟩
  | cons e l ih =>
    obtain ⟨free, out⟩ | ⟨h, taken, op⟩ := held e List.mem_cons_self
    · have idle : endSlot e result [] s = s := by simp [endSlot, free]
      rw [List.foldl_cons, idle]
      obtain ⟨run, slots⟩ := ih s (fun d m => held d (List.mem_cons_of_mem _ m))
      refine ⟨?_, fun d => ?_⟩
      · rw [run]
        refine run_deferrals _ (List.filter_congr fun x mx => ?_)
        have : x ≠ e := fun h => out (h ▸ mx)
        simp [this]
      · rw [slots]
        by_cases m : d = e <;> simp [m, free]
    · have one := endSlot_station_held taken op result []
      have run : ((endSlot e result [] s).station n).run = { (s.station n).run with
          deferrals := (s.station n).run.deferrals.filter (· ≠ e) } := by rw [one]; simp
      have slot : ∀ d, (endSlot e result [] s).slot d = if d = e then none else s.slot d := by
        intro d
        rw [one]
        by_cases m : d = e
        · subst m
          simp
        · simp [m, Ne.symm m]
      obtain ⟨r, t⟩ := ih (endSlot e result [] s) (fun d m => by
        by_cases de : d = e
        · left
          rw [slot, run]
          simp [de]
        · rw [slot, run]
          simp only [de, if_false]
          obtain ⟨f, o⟩ | g := held d (List.mem_cons_of_mem _ m)
          · exact .inl ⟨f, fun x => o (List.mem_filter.1 x).1⟩
          · exact .inr g)
      rw [List.foldl_cons]
      refine ⟨?_, fun d => ?_⟩
      · rw [r, run]
        simp only [List.filter_filter]
        refine run_deferrals _ (List.filter_congr fun x _ => ?_)
        by_cases a : x = e <;> simp [a]
      · rw [t, slot]
        by_cases a : d = e <;> simp [a]

/-- The completion of a station's deferrals leaves it none, and frees their slots (R61). -/
theorem completeDeferrals_held (n : StationNo) (result : Result) (s : State)
    (held : ∀ d ∈ (s.station n).run.deferrals, ∃ h, s.slot d = some h ∧ h.op = .station n) :
    ((completeDeferrals n result s).station n).run = { (s.station n).run with deferrals := [] } ∧
      ∀ d, (completeDeferrals n result s).slot d = if d ∈ (s.station n).run.deferrals then none else s.slot d := by
  obtain ⟨run, slots⟩ := endSlots_station_held n result _ s (fun d m => .inr (held d m))
  refine ⟨?_, slots⟩
  have none : (s.station n).run.deferrals.filter (· ∉ (s.station n).run.deferrals) = [] := by simp
  rw [none] at run
  exact run

end Sys2Proof.Machine
end

