-- ==== Sys2Proof/Laws/Layout.lean ====
section
/-! SUPPORT. The frame check: the register of `frameCheck`, which shifts right under the reflected generator, is the mirror image
of the register that R179 describes, so the two give one check value. -/

namespace Sys2Proof.Machine

set_option Elab.async false

/-- The bits of the mirrored register after a shift: the next bit, and the generator's where the least significant bit left. -/
theorem crcBit_bit (c : BitVec 32) (i : Nat) :
    (crcBit c).getLsbD i = (c.getLsbD (1 + i) ^^ (c.getLsbD 0 && (0xEDB88320#32).getLsbD i)) := by
  unfold crcBit
  cases h : c.getLsbD 0 <;> simp

/-- Shifts add up: the register of a sum is the sum of the registers. -/
theorem crcBit_xor (a b : BitVec 32) : crcBit (a ^^^ b) = crcBit a ^^^ crcBit b := by
  apply BitVec.eq_of_getLsbD_eq
  intro i _
  simp only [crcBit_bit, BitVec.getLsbD_xor]
  cases a.getLsbD 0 <;> cases b.getLsbD 0 <;> cases a.getLsbD (1 + i) <;> cases b.getLsbD (1 + i) <;>
    cases (0xEDB88320#32).getLsbD i <;> rfl

/-- The two generators are mirror images. -/
theorem generators_mirror (i : Nat) (h : i < 32) : (0x04C11DB7#32).getMsbD i = (0xEDB88320#32).getLsbD i := by
  revert i; decide

/-- One bit in the mirrored register: it is added to the least significant bit, and then the register shifts. -/
theorem reverse_checkBit (r : BitVec 32) (b : Bool) :
    (checkBit r b).reverse = crcBit (r.reverse ^^^ (BitVec.ofBool b).setWidth 32) := by
  apply BitVec.eq_of_getLsbD_eq
  intro i hi
  have low : ((BitVec.ofBool b).setWidth 32).getLsbD 0 = b := by cases b <;> rfl
  have high : ((BitVec.ofBool b).setWidth 32).getLsbD (1 + i) = false := by
    cases b <;> simp
  rw [crcBit_bit, BitVec.getLsbD_reverse, BitVec.getLsbD_xor, BitVec.getLsbD_xor, low, high, BitVec.getLsbD_reverse,
    BitVec.getLsbD_reverse, ← generators_mirror i hi]
  unfold checkBit
  cases h : (r.getMsbD 0 ^^ b) <;> simp [BitVec.getMsbD_xor, BitVec.getMsbD_shiftLeft, Nat.add_comm 1 i]

/-- The bits of a byte, least significant first, enter the mirrored register one after another as the whole byte does at once. -/
theorem crcByte_bits (c : BitVec 32) (b : Byte) : crcByte c b = ((List.range 8).map (fun i => b.getLsbD i)).foldl
    (fun c b => crcBit (c ^^^ (BitVec.ofBool b).setWidth 32)) c := by
  have single : ∀ (x : BitVec 32) (v : BitVec 8), crcBit (x ^^^ v.setWidth 32) =
      crcBit (x ^^^ (BitVec.ofBool (v.getLsbD 0)).setWidth 32) ^^^ (v >>> 1).setWidth 32 := by
    intro x v
    have split : v.setWidth 32 = (BitVec.ofBool (v.getLsbD 0)).setWidth 32 ^^^ ((v >>> 1).setWidth 32 <<< 1) := by
      revert v; decide
    have shift : crcBit ((v >>> 1).setWidth 32 <<< 1) = (v >>> 1).setWidth 32 := by
      revert v; decide
    rw [split, ← BitVec.xor_assoc, crcBit_xor, shift]
  have zero : (b >>> 1 >>> 1 >>> 1 >>> 1 >>> 1 >>> 1 >>> 1 >>> 1).setWidth 32 = (0#32) := by
    revert b; decide
  simp only [crcByte, single, zero, BitVec.xor_zero, List.range_succ, List.range_zero, List.nil_append, List.map_append,
    List.map_cons, List.map_nil, List.foldl_append, List.foldl_cons, List.foldl_nil, BitVec.getLsbD_ushiftRight]

/-- The check value of R179. -/
theorem frameCheck_eq (bytes : List Byte) : (frameCheck bytes).toNat = checkValue bytes := by
  have bits : ∀ (l : List Bool) (r : BitVec 32), (l.foldl checkBit r).reverse =
      l.foldl (fun c b => crcBit (c ^^^ (BitVec.ofBool b).setWidth 32)) r.reverse := by
    intro l
    induction l with
    | nil => intro r; rfl
    | cons b l ih => intro r; rw [List.foldl_cons, ih, reverse_checkBit]; rfl
  have all : ∀ (l : List Byte) (c : BitVec 32), l.foldl crcByte c =
      (l.flatMap (fun b => (List.range 8).map (fun i => b.getLsbD i))).foldl
        (fun c b => crcBit (c ^^^ (BitVec.ofBool b).setWidth 32)) c := by
    intro l
    induction l with
    | nil => intro c; rfl
    | cons b l ih => intro c; rw [List.foldl_cons, ih, List.flatMap_cons, List.foldl_append, crcByte_bits]
  have ones : (0xFFFFFFFF#32).reverse = 0xFFFFFFFF#32 := by decide +kernel
  rw [frameCheck, checkValue, bits, all, ones]

end Sys2Proof.Machine
end

