-- ==== Sys2Proof/WellFormed.lean ====
section
/-! DEFINITION. Well-formed commands: a request row carries a request of its own kind whose header fields fit their widths
(Table 9-5) and whose payload fits a frame (R167), and a deadline names a grid time (R1). -/

namespace Sys2Proof

open Machine

/-- The header fields fit Table 9-5, and the delivered payload fits a frame of at most 2,048 bytes (R167, R179). -/
def Request.fits (r : Request) : Bool :=
  r.source < 65536 && r.tag < 65536 && r.kind < 256 && r.wait < 256 && r.target < 65536 && r.payloadLength < 65536 &&
    r.delivered.length ≤ 2022

/-- The command is well formed. -/
def Instr.wellFormed : Instr → Bool
  | .powerOn _ => true
  | .resetPinAsserted _ => true
  | .linkUp _ _ => true
  | .linkDown _ _ => true
  | .lineFrameReceived _ _ _ => true
  | .centerFrameReceived _ _ _ => true
  | .reportIntake _ => true
  | .marker _ _ => true
  | .timeMessage _ _ _ => true
  | .windowEnd _ => true
  | .acquisitionTimerExpiry _ => true
  | .silenceTimerExpiry _ => true
  | .latencyPeriodEnd => true
  | .holdoverTimerExpiry => true
  | .completionLimitExpiry _ => true
  | .deadlineExpiry t _ => gridValid t
  | .schedulePoint _ => true
  | .frameTransmissionComplete _ _ => true
  | .setFragmentComplete _ _ => true
  | .identify _ r => r.fits && requestIs 1 r
  | .readGlobal _ r => r.fits && requestIs 2 r
  | .writeGlobal _ r => r.fits && requestIs 3 r
  | .readStation _ r => r.fits && requestIs 4 r
  | .writeStation _ r => r.fits && requestIs 5 r
  | .exchangeStation _ r => r.fits && requestIs 6 r
  | .enableStation _ r => r.fits && requestIs 7 r
  | .disableStation _ r => r.fits && requestIs 8 r
  | .admitStation _ r => r.fits && requestIs 9 r
  | .acceptShape _ r => r.fits && requestIs 10 r
  | .readCounters _ r => r.fits && requestIs 11 r
  | .clearConditions _ r => r.fits && requestIs 12 r
  | .readStream _ r => r.fits && requestIs 13 r
  | .writeStream _ r => r.fits && requestIs 14 r
  | .startStream _ r => r.fits && requestIs 15 r
  | .stopStreamDrain _ r => r.fits && isStopDrain r
  | .stopStreamCut _ r => r.fits && isStopCut r
  | .readPlan _ r => r.fits && requestIs 17 r
  | .writePlan _ r => r.fits && requestIs 18 r
  | .readTimeline _ r => r.fits && requestIs 19 r
  | .readTimebase _ r => r.fits && requestIs 20 r
  | .writeTimebase _ r => r.fits && requestIs 21 r
  | .readPort _ r => r.fits && requestIs 22 r
  | .snapshot _ r => r.fits && requestIs 23 r
  | .flush _ r => r.fits && requestIs 24 r
  | .resetWarm _ r => r.fits && requestIs 25 r
  | .resetCold _ r => r.fits && requestIs 26 r
  | .messageCutShort _ _ => true
  | .badRequestKind _ r => r.fits && !requestKindOk r
  | .stopStreamBadMode _ r => r.fits && isStopBadMode r

end Sys2Proof
end

