-- ==== Sys2Proof/Laws/PerInstr.lean ====
section
/-! SUPPORT. The family RequestRows: a well-formed request row is the one row of the request it carries, and that request's
header fields fit their widths. -/

namespace Sys2Proof.Laws.RequestRows

set_option Elab.async false

open Sys2Proof Sys2Proof.Machine

/-- The gap and the request that a request row carries. -/
def carried : Instr → Option (Nat × Request)
  | .powerOn _ => none
  | .resetPinAsserted _ => none
  | .linkUp _ _ => none
  | .linkDown _ _ => none
  | .lineFrameReceived _ _ _ => none
  | .centerFrameReceived _ _ _ => none
  | .reportIntake _ => none
  | .marker _ _ => none
  | .timeMessage _ _ _ => none
  | .windowEnd _ => none
  | .acquisitionTimerExpiry _ => none
  | .silenceTimerExpiry _ => none
  | .latencyPeriodEnd => none
  | .holdoverTimerExpiry => none
  | .completionLimitExpiry _ => none
  | .deadlineExpiry _ _ => none
  | .schedulePoint _ => none
  | .frameTransmissionComplete _ _ => none
  | .setFragmentComplete _ _ => none
  | .identify gap r => some (gap, r)
  | .readGlobal gap r => some (gap, r)
  | .writeGlobal gap r => some (gap, r)
  | .readStation gap r => some (gap, r)
  | .writeStation gap r => some (gap, r)
  | .exchangeStation gap r => some (gap, r)
  | .enableStation gap r => some (gap, r)
  | .disableStation gap r => some (gap, r)
  | .admitStation gap r => some (gap, r)
  | .acceptShape gap r => some (gap, r)
  | .readCounters gap r => some (gap, r)
  | .clearConditions gap r => some (gap, r)
  | .readStream gap r => some (gap, r)
  | .writeStream gap r => some (gap, r)
  | .startStream gap r => some (gap, r)
  | .stopStreamDrain gap r => some (gap, r)
  | .stopStreamCut gap r => some (gap, r)
  | .readPlan gap r => some (gap, r)
  | .writePlan gap r => some (gap, r)
  | .readTimeline gap r => some (gap, r)
  | .readTimebase gap r => some (gap, r)
  | .writeTimebase gap r => some (gap, r)
  | .readPort gap r => some (gap, r)
  | .snapshot gap r => some (gap, r)
  | .flush gap r => some (gap, r)
  | .resetWarm gap r => some (gap, r)
  | .resetCold gap r => some (gap, r)
  | .messageCutShort _ _ => none
  | .badRequestKind gap r => some (gap, r)
  | .stopStreamBadMode gap r => some (gap, r)

/-- The row of a request (Table 10-2; R184 check 1, R94). -/
def row (gap : Nat) (r : Request) : Instr :=
  if requestKindOk r then
    match r.kind with
    | 1 => .identify gap r
    | 2 => .readGlobal gap r
    | 3 => .writeGlobal gap r
    | 4 => .readStation gap r
    | 5 => .writeStation gap r
    | 6 => .exchangeStation gap r
    | 7 => .enableStation gap r
    | 8 => .disableStation gap r
    | 9 => .admitStation gap r
    | 10 => .acceptShape gap r
    | 11 => .readCounters gap r
    | 12 => .clearConditions gap r
    | 13 => .readStream gap r
    | 14 => .writeStream gap r
    | 15 => .startStream gap r
    | 16 => match stopMode r with
      | some 0 => .stopStreamDrain gap r
      | some 1 => .stopStreamCut gap r
      | _ => .stopStreamBadMode gap r
    | 17 => .readPlan gap r
    | 18 => .writePlan gap r
    | 19 => .readTimeline gap r
    | 20 => .readTimebase gap r
    | 21 => .writeTimebase gap r
    | 22 => .readPort gap r
    | 23 => .snapshot gap r
    | 24 => .flush gap r
    | 25 => .resetWarm gap r
    | 26 => .resetCold gap r
    | _ => .badRequestKind gap r
  else .badRequestKind gap r

/-- The row's request fits its widths and determines the row. -/
def Statement (i : Instr) : Prop :=
  ∀ gap r, carried i = some (gap, r) → i.wellFormed = true → r.fits = true ∧ row gap r = i

/-- A row that takes the requests of one kind is the row of its request. -/
theorem of_kind {i : Instr} {gap : Nat} {r : Request} (kind : Nat) (low : 1 ≤ kind) (high : kind ≤ 26)
    (carries : carried i = some (gap, r)) (wf : i.wellFormed = (r.fits && requestIs kind r))
    (is_row : requestKindOk r = true → r.kind = kind → row gap r = i) : Statement i := by
  intro gap' r' h w
  rw [carries] at h
  obtain ⟨rfl, rfl⟩ := Prod.mk.inj (Option.some.inj h)
  rw [wf, Bool.and_eq_true] at w
  obtain ⟨fits, is⟩ := w
  simp only [requestIs, Bool.and_eq_true, beq_iff_eq, decide_eq_true_eq] at is
  exact ⟨fits, is_row (by simp [requestKindOk, is.1, is.2, low, high]) is.1⟩

/-- A row that carries no request. -/
theorem of_none {i : Instr} (h : carried i = none) : Statement i := by
  intro gap r h'
  rw [h] at h'
  cases h'

theorem powerOn (gap : Nat) : Statement (.powerOn gap) := of_none rfl
theorem resetPinAsserted (gap : Nat) : Statement (.resetPinAsserted gap) := of_none rfl
theorem linkUp (gap : Nat) (link : LinkId) : Statement (.linkUp gap link) := of_none rfl
theorem linkDown (gap : Nat) (link : LinkId) : Statement (.linkDown gap link) := of_none rfl
theorem lineFrameReceived (gap : Nat) (line : LineId) (bytes : List Byte) :
    Statement (.lineFrameReceived gap line bytes) := of_none rfl
theorem centerFrameReceived (gap : Nat) (center : CenterId) (bytes : List Byte) :
    Statement (.centerFrameReceived gap center bytes) := of_none rfl
theorem reportIntake (gap : Nat) : Statement (.reportIntake gap) := of_none rfl
theorem marker (gap : Nat) (input : InputId) : Statement (.marker gap input) := of_none rfl
theorem timeMessage (gap : Nat) (input : InputId) (bytes : LineBytes) : Statement (.timeMessage gap input bytes) := of_none rfl
theorem windowEnd (input : InputId) : Statement (.windowEnd input) := of_none rfl
theorem acquisitionTimerExpiry (station : StationNo) : Statement (.acquisitionTimerExpiry station) := of_none rfl
theorem silenceTimerExpiry (station : StationNo) : Statement (.silenceTimerExpiry station) := of_none rfl
theorem latencyPeriodEnd : Statement (.latencyPeriodEnd) := of_none rfl
theorem holdoverTimerExpiry : Statement (.holdoverTimerExpiry) := of_none rfl
theorem completionLimitExpiry (slot : SlotNo) : Statement (.completionLimitExpiry slot) := of_none rfl
theorem deadlineExpiry (instant : GridTime) (stream : StreamNo) : Statement (.deadlineExpiry instant stream) := of_none rfl
theorem schedulePoint (stream : StreamNo) : Statement (.schedulePoint stream) := of_none rfl
theorem frameTransmissionComplete (gap : Nat) (center : CenterId) : Statement (.frameTransmissionComplete gap center) := of_none rfl
theorem setFragmentComplete (gap : Nat) (center : CenterId) : Statement (.setFragmentComplete gap center) := of_none rfl
theorem identify (gap : Nat) (request : Request) : Statement (.identify gap request) :=
  of_kind 1 (by decide) (by decide) rfl rfl fun ok k => by simp [row, ok, k]
theorem readGlobal (gap : Nat) (request : Request) : Statement (.readGlobal gap request) :=
  of_kind 2 (by decide) (by decide) rfl rfl fun ok k => by simp [row, ok, k]
theorem writeGlobal (gap : Nat) (request : Request) : Statement (.writeGlobal gap request) :=
  of_kind 3 (by decide) (by decide) rfl rfl fun ok k => by simp [row, ok, k]
theorem readStation (gap : Nat) (request : Request) : Statement (.readStation gap request) :=
  of_kind 4 (by decide) (by decide) rfl rfl fun ok k => by simp [row, ok, k]
theorem writeStation (gap : Nat) (request : Request) : Statement (.writeStation gap request) :=
  of_kind 5 (by decide) (by decide) rfl rfl fun ok k => by simp [row, ok, k]
theorem exchangeStation (gap : Nat) (request : Request) : Statement (.exchangeStation gap request) :=
  of_kind 6 (by decide) (by decide) rfl rfl fun ok k => by simp [row, ok, k]
theorem enableStation (gap : Nat) (request : Request) : Statement (.enableStation gap request) :=
  of_kind 7 (by decide) (by decide) rfl rfl fun ok k => by simp [row, ok, k]
theorem disableStation (gap : Nat) (request : Request) : Statement (.disableStation gap request) :=
  of_kind 8 (by decide) (by decide) rfl rfl fun ok k => by simp [row, ok, k]
theorem admitStation (gap : Nat) (request : Request) : Statement (.admitStation gap request) :=
  of_kind 9 (by decide) (by decide) rfl rfl fun ok k => by simp [row, ok, k]
theorem acceptShape (gap : Nat) (request : Request) : Statement (.acceptShape gap request) :=
  of_kind 10 (by decide) (by decide) rfl rfl fun ok k => by simp [row, ok, k]
theorem readCounters (gap : Nat) (request : Request) : Statement (.readCounters gap request) :=
  of_kind 11 (by decide) (by decide) rfl rfl fun ok k => by simp [row, ok, k]
theorem clearConditions (gap : Nat) (request : Request) : Statement (.clearConditions gap request) :=
  of_kind 12 (by decide) (by decide) rfl rfl fun ok k => by simp [row, ok, k]
theorem readStream (gap : Nat) (request : Request) : Statement (.readStream gap request) :=
  of_kind 13 (by decide) (by decide) rfl rfl fun ok k => by simp [row, ok, k]
theorem writeStream (gap : Nat) (request : Request) : Statement (.writeStream gap request) :=
  of_kind 14 (by decide) (by decide) rfl rfl fun ok k => by simp [row, ok, k]
theorem startStream (gap : Nat) (request : Request) : Statement (.startStream gap request) :=
  of_kind 15 (by decide) (by decide) rfl rfl fun ok k => by simp [row, ok, k]
theorem stopStreamDrain (gap : Nat) (request : Request) : Statement (.stopStreamDrain gap request) := by
  intro g r h w
  obtain ⟨rfl, rfl⟩ := Prod.mk.inj (Option.some.inj h)
  simp only [Instr.wellFormed, isStopDrain, requestIs, Bool.and_eq_true, beq_iff_eq, decide_eq_true_eq] at w
  refine ⟨w.1, ?_⟩
  have ok : requestKindOk request = true := by simp [requestKindOk, w]
  simp only [row, ok, w]
  simp
theorem stopStreamCut (gap : Nat) (request : Request) : Statement (.stopStreamCut gap request) := by
  intro g r h w
  obtain ⟨rfl, rfl⟩ := Prod.mk.inj (Option.some.inj h)
  simp only [Instr.wellFormed, isStopCut, requestIs, Bool.and_eq_true, beq_iff_eq, decide_eq_true_eq] at w
  refine ⟨w.1, ?_⟩
  have ok : requestKindOk request = true := by simp [requestKindOk, w]
  simp only [row, ok, w]
  simp
theorem readPlan (gap : Nat) (request : Request) : Statement (.readPlan gap request) :=
  of_kind 17 (by decide) (by decide) rfl rfl fun ok k => by simp [row, ok, k]
theorem writePlan (gap : Nat) (request : Request) : Statement (.writePlan gap request) :=
  of_kind 18 (by decide) (by decide) rfl rfl fun ok k => by simp [row, ok, k]
theorem readTimeline (gap : Nat) (request : Request) : Statement (.readTimeline gap request) :=
  of_kind 19 (by decide) (by decide) rfl rfl fun ok k => by simp [row, ok, k]
theorem readTimebase (gap : Nat) (request : Request) : Statement (.readTimebase gap request) :=
  of_kind 20 (by decide) (by decide) rfl rfl fun ok k => by simp [row, ok, k]
theorem writeTimebase (gap : Nat) (request : Request) : Statement (.writeTimebase gap request) :=
  of_kind 21 (by decide) (by decide) rfl rfl fun ok k => by simp [row, ok, k]
theorem readPort (gap : Nat) (request : Request) : Statement (.readPort gap request) :=
  of_kind 22 (by decide) (by decide) rfl rfl fun ok k => by simp [row, ok, k]
theorem snapshot (gap : Nat) (request : Request) : Statement (.snapshot gap request) :=
  of_kind 23 (by decide) (by decide) rfl rfl fun ok k => by simp [row, ok, k]
theorem flush (gap : Nat) (request : Request) : Statement (.flush gap request) :=
  of_kind 24 (by decide) (by decide) rfl rfl fun ok k => by simp [row, ok, k]
theorem resetWarm (gap : Nat) (request : Request) : Statement (.resetWarm gap request) :=
  of_kind 25 (by decide) (by decide) rfl rfl fun ok k => by simp [row, ok, k]
theorem resetCold (gap : Nat) (request : Request) : Statement (.resetCold gap request) :=
  of_kind 26 (by decide) (by decide) rfl rfl fun ok k => by simp [row, ok, k]
theorem messageCutShort (gap : Nat) (input : InputId) : Statement (.messageCutShort gap input) := of_none rfl
theorem badRequestKind (gap : Nat) (request : Request) : Statement (.badRequestKind gap request) := by
  intro g r h w
  obtain ⟨rfl, rfl⟩ := Prod.mk.inj (Option.some.inj h)
  rw [Instr.wellFormed, Bool.and_eq_true] at w
  exact ⟨w.1, by simp only [Bool.not_eq_true'] at w; simp [row, w.2]⟩
theorem stopStreamBadMode (gap : Nat) (request : Request) : Statement (.stopStreamBadMode gap request) := by
  intro g r h w
  obtain ⟨rfl, rfl⟩ := Prod.mk.inj (Option.some.inj h)
  simp only [Instr.wellFormed, isStopBadMode, requestIs, Bool.and_eq_true, beq_iff_eq, decide_eq_true_eq, Bool.not_eq_true',
    beq_eq_false_iff_ne] at w
  refine ⟨w.1, ?_⟩
  have ok : requestKindOk request = true := by simp [requestKindOk, w]
  simp only [row, ok, w]
  split <;> simp_all

end Sys2Proof.Laws.RequestRows
end

