-- ==== Sys2Proof/Laws/Reach.lean ====
section
/-! SUPPORT. What closes, creations and the schedule do to what local time has reached (R11, R97): `Settles s t` says that no
deadline has become due, no stream runs anew and no schedule mark has fallen; and the count of what is due, which every deadline
and every schedule point that is taken lowers. -/

namespace Sys2Proof.Machine

set_option Elab.async false

/-- The stream's window at an instant is OPEN, and local time has reached its deadline. -/
def dueAt (s : State) (i : GridTime) (k : StreamNo) : Prop :=
  ∃ w d, windowAt s i k = some w ∧ w.state = .opened ∧ w.deadline = some d ∧ earlier s.localTime d = false

/-- Nothing has become due: no deadline, no stream that runs anew, no schedule mark that has fallen. -/
structure Settles (s t : State) : Prop where
  time    : t.localTime = s.localTime
  store   : StoreOk s → StoreOk t
  due     : ∀ i k, dueAt t i k → dueAt s i k
  running : ∀ k, (t.stream k).run.state = .running → (s.stream k).run.state = .running
  mark    : ∀ k, earlier (t.stream k).run.mark (s.stream k).run.mark = false

theorem Settles.refl (s : State) : Settles s s := ⟨rfl, id, fun _ _ h => h, fun _ h => h, fun _ => earlier_irrefl _⟩

theorem atOrAfter_trans {a b c : GridTime} (h : earlier b a = false) (g : earlier c b = false) : earlier c a = false := by
  simp [earlier] at *; omega

theorem Settles.trans {s t u : State} (h : Settles s t) (g : Settles t u) : Settles s u :=
  ⟨g.time.trans h.time, fun o => g.store (h.store o), fun i k d => h.due i k (g.due i k d),
    fun k r => h.running k (g.running k r), fun k => atOrAfter_trans (h.mark k) (g.mark k)⟩

theorem Settles.foldl {α : Type} {f : State → α → State} (hf : ∀ s a, Settles s (f s a)) (l : List α) (s : State) :
    Settles s (l.foldl f s) := by
  induction l generalizing s with
  | nil => exact .refl s
  | cons a l ih => exact (hf s a).trans (ih (f s a))

theorem dueAt_congr {s t : State} (time : t.localTime = s.localTime) (timeline : t.timeline = s.timeline) (i : GridTime)
    (k : StreamNo) : dueAt t i k ↔ dueAt s i k := by
  unfold dueAt windowAt recordAt
  rw [time, timeline]

/-- What leaves the Timeline, local time, the states of the streams and their marks alone. -/
theorem Settles.of {s t : State} (time : t.localTime = s.localTime) (timeline : t.timeline = s.timeline)
    (free : t.freeSlots = s.freeSlots) (state : ∀ k, (t.stream k).run.state = (s.stream k).run.state)
    (mark : ∀ k, (t.stream k).run.mark = (s.stream k).run.mark) : Settles s t :=
  ⟨time, fun h => h.congr timeline free, fun i k => (dueAt_congr time timeline i k).mp, fun k h => by rw [← state]; exact h,
    fun k => by rw [mark]; exact earlier_irrefl _⟩

/-! ## Notices, slots, counts, sets -/

theorem pushNotice_settles (b : NoticeBody) (s : State) : Settles s (pushNotice b s) := by apply Settles.of <;> intros <;> simp

theorem setStreamRun_settles (k : StreamNo) (r : StreamRun) (s : State) (state : r.state = .running → (s.stream k).run.state = .running)
    (mark : earlier r.mark (s.stream k).run.mark = false) : Settles s (s.setStreamRun k r) := by
  refine ⟨rfl, fun h => h.congr rfl rfl, fun i j => (dueAt_congr rfl rfl i j).mp, fun j h => ?_, fun j => ?_⟩
  · rw [State.stream_setStreamRun] at h
    split at h
    · rename_i e; subst e; exact state h
    · exact h
  · rw [State.stream_setStreamRun]
    split
    · rename_i e; subst e; exact mark
    · exact earlier_irrefl _

theorem endSlot_settles (d : SlotNo) (x : Result) (p : List Byte) (s : State) : Settles s (endSlot d x p s) := by
  unfold endSlot
  split
  · exact .refl s
  · rename_i h _
    have answered : ∀ a, Settles s ((placeAnswer h.link a s).setSlot d none) := fun a => by apply Settles.of <;> intros <;> simp
    refine (answered ⟨h.source, h.tag, h.kind, h.target, x, p⟩).trans ?_
    unfold forgetSlot
    split
    · exact setStreamRun_settles _ _ _ id (earlier_irrefl _)
    · apply Settles.of <;> intros <;> rfl

theorem stopStream_settles (k : StreamNo) (c : StreamCause) (s : State) : Settles s (stopStream k c s) := by
  have stopped : Settles s (pushNotice (.streamState k (s.stream k).run.state .stopped c)
      (s.setStreamRun k { (s.stream k).run with state := .stopped, pendingStop := none })) :=
    (setStreamRun_settles k { (s.stream k).run with state := .stopped, pendingStop := none } s (fun h => by cases h)
      (earlier_irrefl _)).trans (pushNotice_settles _ _)
  simp only [stopStream]
  split
  · exact stopped.trans (endSlot_settles _ _ _ _)
  · exact stopped

theorem drainIfDone_settles (k : StreamNo) (s : State) : Settles s (drainIfDone k s) := by
  unfold drainIfDone
  split <;> first | exact stopStream_settles _ _ _ | exact .refl s

theorem makeRoom_settles (k : StreamNo) (s : State) : Settles s (makeRoom k s) := by
  have discard : ∀ a c l, Settles s (discardSet k a c l s) := fun a c l =>
    (setStreamRun_settles k { (s.stream k).run with queue := l, discarded := satInc (s.stream k).run.discarded } s id
      (earlier_irrefl _)).trans (pushNotice_settles _ _)
  unfold makeRoom
  split
  · exact .refl s
  · split
    · split <;> exact discard _ _ _
    · split <;> first | exact .refl s | exact discard _ _ _
    · exact .refl s

theorem buildSet_settles (k : StreamNo) (r : Record) (w : Window) (c : CloseCause) (s : State) :
    Settles s (buildSet k r w c s) :=
  (makeRoom_settles k s).trans (setStreamRun_settles _ _ _ id (earlier_irrefl _))

theorem not_earlier_laterOf_left (a b : GridTime) : earlier (laterOf a b) a = false := by
  unfold laterOf
  split
  · exact earlier_asymm ‹_›
  · exact earlier_irrefl a

theorem setFloor_settles (k : StreamNo) (t : GridTime) (s : State) : Settles s (setFloor k t s) :=
  setStreamRun_settles _ _ _ id (not_earlier_laterOf_left _ _)

theorem countMissing_settles (l : List StationNo) (s : State) : Settles s (countMissing l s) :=
  Settles.foldl (fun s n => by
    have : ∀ k, (countStation n .missing s).stream k = s.stream k := fun k => by simp
    apply Settles.of <;> intros <;> simp [this]) _ _

/-! ## Closes -/

/-- A window of a record takes a state that is not OPEN. -/
theorem modifyRecord_settles (t : GridTime) (k : StreamNo) (w : Window) (s : State) (hw : w.state ≠ .opened) :
    Settles s (modifyRecord t (fun q => q.setWindow k w) s) := by
  refine ⟨rfl, fun h => h.modifyRecord t (fun _ => rfl) (fun _ => rfl), ?_, fun _ h => h, fun _ => earlier_irrefl _⟩
  rintro i j ⟨v, d, at_, opened, deadline, reached⟩
  refine ⟨v, d, ?_, opened, deadline, reached⟩
  unfold windowAt at at_ ⊢
  rw [recordAt_modifyRecord (f := fun q => q.setWindow k w) (fun _ => rfl)] at at_
  split at at_
  · rename_i e
    subst e
    cases found : recordAt s i with
    | none => rw [found] at at_; cases at_
    | some r =>
      rw [found] at at_
      simp only [Option.map_some, Option.some.injEq, Record.setWindow, Fin.getElem_fin, Vector.getElem_set] at at_ ⊢
      split at at_
      · subst at_; exact absurd opened hw
      · exact at_
  · exact at_

theorem retireIfDone_settles (t : GridTime) (s : State) : Settles s (retireIfDone t s) := by
  have keeps : (retireIfDone t s).localTime = s.localTime ∧ ∀ k, (retireIfDone t s).stream k = s.stream k := by
    unfold retireIfDone
    split
    · exact ⟨rfl, fun _ => rfl⟩
    · split <;> exact ⟨rfl, fun _ => rfl⟩
  refine ⟨keeps.1, fun h => h.retireIfDone t, ?_, fun k h => by rwa [keeps.2] at h, fun k => by
    rw [keeps.2]; exact earlier_irrefl _⟩
  rintro i j ⟨v, d, at_, opened, deadline, reached⟩
  refine ⟨v, d, ?_, opened, deadline, by rwa [keeps.1] at reached⟩
  unfold windowAt at at_ ⊢
  rcases recordAt_retireIfDone t s i with e | ⟨-, e⟩ <;> rw [e] at at_
  · exact at_
  · cases at_

theorem closeWindow_settles (k : StreamNo) (t : GridTime) (c : CloseCause) (s : State) :
    Settles s (closeWindow k t c s) := by
  unfold closeWindow
  split
  · exact .refl s
  · exact ((((modifyRecord_settles t k _ s (by simp)).trans (buildSet_settles _ _ _ _ _)).trans (setFloor_settles _ _ _)).trans
      (countMissing_settles _ _)).trans (retireIfDone_settles _ _)

theorem settle_settles (k : StreamNo) (s : State) : Settles s (settle k s) := by
  have from_ : ∀ (l : List GridTime) (s : State), Settles s (settleFrom k l s) := by
    intro l
    induction l with
    | nil => exact Settles.refl
    | cons t l ih =>
      intro s
      unfold settleFrom
      split
      · exact ih s
      · split
        · exact ((closeWindow_settles _ _ _ _).trans (drainIfDone_settles _ _)).trans (ih _)
        · exact .refl s
        · exact ih s
        · exact ih s
  exact from_ _ _

theorem settleAll_settles (s : State) : Settles s (settleAll s) := Settles.foldl (fun s k => settle_settles k s) _ s

theorem countForced_settles (s : State) : Settles s (countForced s) := .of rfl rfl rfl (fun _ => rfl) (fun _ => rfl)

theorem forceClose_settles (t : GridTime) (s : State) : Settles s (forceClose t s) := by
  have counted : ∀ k u, Settles u (u.setStreamRun k { (u.stream k).run with forced := satInc (u.stream k).run.forced }) :=
    fun k u => setStreamRun_settles k { (u.stream k).run with forced := satInc (u.stream k).run.forced } u id (earlier_irrefl _)
  have window : ∀ s k, Settles s (forceWindow t s k) := fun s k => by
    simp only [forceWindow]
    split
    · exact (((closeWindow_settles k t .forced s).trans (counted k _)).trans (drainIfDone_settles _ _)).trans
        (settle_settles _ _)
    · exact .refl s
  unfold forceClose
  exact ((Settles.foldl window allStreams s).trans (retireIfDone_settles t _)).trans (countForced_settles _)

/-! ## Creation and the schedule -/

/-- A window that opens is not OPEN with a deadline that local time has reached (R103). -/
theorem openedWindow_notDue {s : State} {k : StreamNo} {r : Record} {d : GridTime} (opened : (openedWindow s k r).state = .opened)
    (deadline : (openedWindow s k r).deadline = some d) : earlier s.localTime d = true := by
  simp only [openedWindow] at opened deadline
  split at opened
  · cases opened
  · split at opened
    · cases opened
    · rename_i h
      cases deadline
      simpa [atOrBefore] using h

/-- A record's window after a change of its windows. -/
theorem mapWindows_get (r : Record) (f : StreamNo → Window → Window) (k : StreamNo) :
    (r.mapWindows f).windows[k] = f k r.windows[k] := by
  match k with
  | 0 => rfl
  | 1 => rfl
  | 2 => rfl
  | 3 => rfl
  | 4 => rfl
  | 5 => rfl
  | 6 => rfl
  | 7 => rfl

/-- A creation leaves every other record as it was. -/
theorem recordAt_createRecord_other {s : State} {t i : GridTime} (c : CreationCause) (h : i ≠ t) :
    recordAt (createRecord t c s) i = recordAt s i := by
  have instant : (newRecord s t c).instant = t := rfl
  unfold recordAt createRecord
  dsimp only
  generalize newRecord s t c = r at instant
  have ne : (r.instant == i) = false := by simpa [instant] using h.symm
  generalize s.timeline = l
  induction l with
  | nil => simp [insertRecord, ne]
  | cons a l ih =>
    unfold insertRecord
    split
    · simp [List.find?_cons, ne]
    · rw [List.find?_cons, List.find?_cons, ih]

theorem createRecord_settles {t : GridTime} {s : State} (new : recordAt s t = none) (c : CreationCause) :
    Settles s (createRecord t c s) := by
  refine ⟨rfl, fun h => h.createRecord new c, ?_, fun _ h => h, fun _ => earlier_irrefl _⟩
  rintro i j ⟨v, d, at_, opened, deadline, reached⟩
  unfold windowAt at at_
  by_cases e : i = t
  · subst e
    rw [recordAt_createRecord new, Option.map_some, Option.some.injEq, newRecord, mapWindows_get] at at_
    subst at_
    split at opened
    · rename_i w
      rw [if_pos w] at deadline
      exact absurd (openedWindow_notDue opened deadline) (Bool.eq_false_iff.mp reached)
    · simp [Window.notUsed] at opened
  · rw [recordAt_createRecord_other c e] at at_
    exact ⟨v, d, at_, opened, deadline, reached⟩

theorem storeDiscard_settles (s : State) : Settles s (storeDiscard s) := .of rfl rfl rfl (fun _ => rfl) (fun _ => rfl)

theorem scheduleAt_settles (k : StreamNo) (t : GridTime) (s : State) : Settles s (scheduleAt k t s) := by
  have created : ∀ u, recordAt u t = none → Settles u (scheduleRecord t u) := fun u new =>
    (createRecord_settles new .schedule).trans (settleAll_settles _)
  unfold scheduleAt
  split
  · exact .refl s
  · rename_i new
    split
    · exact created s new
    · split
      · exact .refl s
      · rename_i o l _
        split
        · dsimp only
          split
          · exact (forceClose_settles o.instant s).trans (created _ (forceClose_none new o.instant))
          · exact forceClose_settles o.instant s
        · exact (storeDiscard_settles s).trans (setFloor_settles _ _ _)

/-- A schedule point that is taken puts the stream's mark at least there. -/
theorem reachSchedule_mark (k : StreamNo) (t : GridTime) (s : State) :
    earlier ((reachSchedule k t s).stream k).run.mark t = false := by
  simp only [reachSchedule, markReached, State.stream_setStreamRun_same]
  exact not_earlier_laterOf_left t _

theorem reachSchedule_settles {k : StreamNo} {t : GridTime} {s : State} (h : earlier (s.stream k).run.mark t = true) :
    Settles s (reachSchedule k t s) := by
  have a := scheduleAt_settles k t s
  refine ⟨a.time, fun o => (a.store o).congr rfl rfl, fun i j d => a.due i j ((dueAt_congr rfl rfl i j).mp d), fun j r => ?_,
    fun j => ?_⟩
  · simp only [reachSchedule, markReached, State.stream_setStreamRun] at r
    split at r
    · rename_i e; subst e; exact a.running k r
    · exact a.running j r
  · by_cases e : j = k
    · subst e
      exact atOrAfter_trans (earlier_asymm h) (reachSchedule_mark j t s)
    · simp only [reachSchedule, markReached, State.stream_setStreamRun_other _ _ (Ne.symm e)]
      exact a.mark j

/-- The expiry of a deadline: nothing becomes due, and its own window is OPEN no more. -/
theorem expireDeadline_settles (i : GridTime) (k : StreamNo) (s : State) :
    Settles s (expireDeadline i k s) ∧ ¬dueAt (expireDeadline i k s) i k := by
  have idle : windowAt s i k = none ∨ (∃ w, windowAt s i k = some w ∧ w.state ≠ .opened) → ¬dueAt s i k := by
    rintro h ⟨w, d, at_, opened, -⟩
    rcases h with h | ⟨v, h, ne⟩ <;> rw [at_] at h <;> cases h
    exact ne opened
  unfold expireDeadline
  split
  · exact ⟨.refl s, idle (.inl ‹_›)⟩
  · rename_i w at_
    split
    · rename_i opened
      have ready : Settles s (modifyRecord i (fun r => r.setWindow k { w with state := .ready .deadline }) s) :=
        modifyRecord_settles i k _ s (by simp)
      refine ⟨ready.trans (settle_settles _ _), fun due => ?_⟩
      obtain ⟨v, d, e, open_, -⟩ := (settle_settles _ _).due i k due
      unfold windowAt at e at_
      rw [recordAt_modifyRecord (f := fun r => r.setWindow k { w with state := .ready .deadline }) (fun _ => rfl), if_pos rfl] at e
      cases found : recordAt s i with
      | none => rw [found] at e; cases e
      | some r =>
        rw [found] at e
        simp only [Option.map_some, Option.some.injEq, Record.setWindow, Fin.getElem_fin, Vector.getElem_set_self] at e
        subst e
        cases open_
    all_goals exact ⟨.refl s, idle (.inr ⟨w, at_, by simp [*]⟩)⟩

/-! ## The earliest of what is due -/

theorem earliestEvent_none {l : List (GridTime × (State → State))} (h : earliestEvent l = none) : l = [] := by
  cases l with
  | nil => rfl
  | cons a l =>
    unfold earliestEvent at h
    split at h
    · cases h
    · split at h <;> cases h

/-- No event is earlier than the earliest. -/
theorem earliestEvent_le {l : List (GridTime × (State → State))} {e : GridTime × (State → State)}
    (h : earliestEvent l = some e) : ∀ f ∈ l, earlier f.1 e.1 = false := by
  induction l generalizing e with
  | nil => cases h
  | cons a l ih =>
    intro f mem
    unfold earliestEvent at h
    split at h
    · rename_i none_
      cases h
      rw [earliestEvent_none none_, List.mem_singleton] at mem
      rw [mem]; exact earlier_irrefl _
    · rename_i g least
      split at h <;> cases h <;> rcases List.mem_cons.mp mem with rfl | mem
      · exact earlier_asymm ‹_›
      · exact ih least f mem
      · exact earlier_irrefl _
      · exact atOrAfter_trans (Bool.eq_false_iff.mpr ‹_›) (ih least f mem)

/-! ## How much is due -/

theorem mem_allStreams (k : StreamNo) : k ∈ allStreams := by revert k; decide

/-- The number of instants of a rate up to a grid time. -/
def pointsUpTo (rate : RateCode) (t : GridTime) : Nat :=
  t.sec * rate.rate + (List.range rate.rate).countP (fun i => nominalNs rate.rate i ≤ t.ns)

theorem rate_pos (rate : RateCode) : 0 < rate.rate := by cases rate <;> decide

theorem pointsUpTo_le (rate : RateCode) (t : GridTime) : pointsUpTo rate t ≤ (t.sec + 1) * rate.rate := by
  have := List.countP_le_length (l := List.range rate.rate) (p := fun i => nominalNs rate.rate i ≤ t.ns)
  rw [List.length_range] at this
  unfold pointsUpTo
  rw [Nat.add_mul, Nat.one_mul]
  omega

theorem pointsUpTo_mono {rate : RateCode} {a b : GridTime} (h : earlier b a = false) :
    pointsUpTo rate a ≤ pointsUpTo rate b := by
  by_cases e : a.sec = b.sec
  · unfold pointsUpTo
    rw [e]
    refine Nat.add_le_add_left (List.countP_mono_left fun i _ le => ?_) _
    simp [earlier, e] at h le ⊢
    omega
  · have lt : a.sec + 1 ≤ b.sec := by simp [earlier] at h; omega
    refine Nat.le_trans (pointsUpTo_le rate a) (Nat.le_trans (Nat.mul_le_mul_right _ lt) ?_)
    unfold pointsUpTo
    omega

/-- A count over a list rises by an element that only the larger predicate has. -/
theorem countP_lt {α : Type} {p q : α → Bool} {l : List α} (h : ∀ a ∈ l, p a = true → q a = true) {a : α} (mem : a ∈ l)
    (pa : p a = false) (qa : q a = true) : l.countP p < l.countP q := by
  induction l with
  | nil => cases mem
  | cons b l ih =>
    have tail : ∀ a ∈ l, p a = true → q a = true := fun a m => h a (List.mem_cons_of_mem _ m)
    rw [List.countP_cons, List.countP_cons]
    rcases List.mem_cons.mp mem with rfl | mem
    · have := List.countP_mono_left tail
      simp only [pa, qa, if_true, Bool.false_eq_true, if_false]
      omega
    · have := ih tail mem
      have := h b List.mem_cons_self
      by_cases pb : p b = true
      · rw [if_pos pb, if_pos (this pb)]; omega
      · rw [if_neg pb]; split <;> omega

theorem nextInstant_later {rate : RateCode} {a t : GridTime} (h : nextInstant rate a = some t) : earlier a t = true := by
  unfold nextInstant at h
  split at h
  · rename_i i found
    cases h
    have := List.find?_some found
    simpa [earlier] using this
  · split at h
    · cases h; simp [earlier]
    · cases h

theorem pointsUpTo_next {rate : RateCode} {a t : GridTime} (h : nextInstant rate a = some t) :
    pointsUpTo rate a < pointsUpTo rate t := by
  unfold nextInstant at h
  split at h
  · rename_i i found
    cases h
    have later := List.find?_some found
    refine Nat.add_lt_add_left (countP_lt (fun j _ le => ?_) (List.mem_of_find?_eq_some found) ?_ ?_) _
    · simp at later le ⊢; omega
    · simpa using later
    · simp
  · split at h
    · cases h
      refine Nat.lt_of_le_of_lt (pointsUpTo_le rate a) ?_
      unfold pointsUpTo
      have : 0 < (List.range rate.rate).countP (fun i => nominalNs rate.rate i ≤ 0) :=
        List.countP_pos_iff.mpr ⟨0, List.mem_range.mpr (rate_pos rate), by simp [nominalNs]⟩
      dsimp only
      omega
    · cases h

/-- The schedule points of a stream that local time has reached. -/
def pointsLeft (s : State) (k : StreamNo) : Nat :=
  pointsUpTo (s.stream k).config.rate s.localTime - pointsUpTo (s.stream k).config.rate (s.stream k).run.mark

/-- `dueAt` as a Boolean. -/
def isDueAt (s : State) (i : GridTime) (k : StreamNo) : Bool :=
  match windowAt s i k with
  | none => false
  | some w =>
    match w.state, w.deadline with
    | .opened, some d => !earlier s.localTime d
    | _, _ => false

theorem isDueAt_iff {s : State} {i : GridTime} {k : StreamNo} : isDueAt s i k = true ↔ dueAt s i k := by
  unfold isDueAt dueAt
  cases windowAt s i k with
  | none => simp
  | some w =>
    obtain ⟨state, awaited, deadline, late⟩ := w
    cases state <;> cases deadline <;> simp

/-- The due deadlines among some windows, and the due points of every stream. -/
def dueLeft (u : List (GridTime × StreamNo)) (s : State) : Nat :=
  u.countP (fun p => isDueAt s p.1 p.2) + (allStreams.map (pointsLeft s)).sum

theorem sum_map_le {α : Type} {f g : α → Nat} {l : List α} (h : ∀ a ∈ l, f a ≤ g a) : (l.map f).sum ≤ (l.map g).sum := by
  induction l with
  | nil => exact Nat.le_refl _
  | cons a l ih =>
    have := h a List.mem_cons_self
    have := ih fun b m => h b (List.mem_cons_of_mem _ m)
    simp only [List.map_cons, List.sum_cons]
    omega

theorem sum_map_lt {α : Type} {f g : α → Nat} {l : List α} (h : ∀ a ∈ l, f a ≤ g a) {a : α} (mem : a ∈ l) (lt : f a < g a) :
    (l.map f).sum < (l.map g).sum := by
  induction l with
  | nil => cases mem
  | cons b l ih =>
    have tail : ∀ a ∈ l, f a ≤ g a := fun a m => h a (List.mem_cons_of_mem _ m)
    have := h b List.mem_cons_self
    have := sum_map_le tail
    simp only [List.map_cons, List.sum_cons]
    rcases List.mem_cons.mp mem with rfl | mem
    · omega
    · have := ih tail mem; omega

theorem pointsLeft_le {s t : State} (h : Settles s t) (kept : Kept s t) (k : StreamNo) : pointsLeft t k ≤ pointsLeft s k := by
  unfold pointsLeft
  rw [kept.streamConfig, h.time]
  have := pointsUpTo_mono (rate := (s.stream k).config.rate) (h.mark k)
  omega

/-- A due deadline that is taken lowers the count. -/
theorem dueLeft_deadline {u : List (GridTime × StreamNo)} {s : State} {i : GridTime} {k : StreamNo} (mem : (i, k) ∈ u)
    (due : dueAt s i k) : dueLeft u (expireDeadline i k s) < dueLeft u s := by
  obtain ⟨h, gone⟩ := expireDeadline_settles i k s
  have points := sum_map_le fun j (_ : j ∈ allStreams) => pointsLeft_le h (expireDeadline_kept i k s) j
  have deadlines : u.countP (fun p => isDueAt (expireDeadline i k s) p.1 p.2) < u.countP (fun p => isDueAt s p.1 p.2) := by
    refine countP_lt (fun p _ d => ?_) mem ?_ ?_
    · exact isDueAt_iff.mpr (h.due _ _ (isDueAt_iff.mp d))
    · exact Bool.eq_false_iff.mpr fun d => gone (isDueAt_iff.mp d)
    · exact isDueAt_iff.mpr due
  unfold dueLeft
  omega

/-- A due schedule point that is taken lowers the count. -/
theorem dueLeft_point {u : List (GridTime × StreamNo)} {s : State} {k : StreamNo} {t : GridTime}
    (next : nextInstant (s.stream k).config.rate (s.stream k).run.mark = some t) (reached : earlier s.localTime t = false) :
    dueLeft u (reachSchedule k t s) < dueLeft u s := by
  have h := reachSchedule_settles (nextInstant_later next)
  have kept := reachSchedule_kept k t s
  have deadlines : u.countP (fun p => isDueAt (reachSchedule k t s) p.1 p.2) ≤ u.countP (fun p => isDueAt s p.1 p.2) :=
    List.countP_mono_left fun p _ d => isDueAt_iff.mpr (h.due _ _ (isDueAt_iff.mp d))
  have points := sum_map_lt (fun j (_ : j ∈ allStreams) => pointsLeft_le h kept j) (mem_allStreams k)
    (show pointsLeft (reachSchedule k t s) k < pointsLeft s k by
      unfold pointsLeft
      rw [kept.streamConfig, h.time]
      have := pointsUpTo_next next
      have := pointsUpTo_mono (rate := (s.stream k).config.rate) reached
      have := pointsUpTo_mono (rate := (s.stream k).config.rate) (reachSchedule_mark k t s)
      omega)
  unfold dueLeft
  omega

/-- The windows of a state, each by its instant and its stream. -/
def windowsOf (s : State) : List (GridTime × StreamNo) := (instants s).flatMap (fun i => allStreams.map (fun k => (i, k)))

theorem mem_windowsOf {s : State} {i : GridTime} {k : StreamNo} (h : dueAt s i k) : (i, k) ∈ windowsOf s := by
  obtain ⟨w, d, at_, -⟩ := h
  unfold windowAt at at_
  cases found : recordAt s i with
  | none => rw [found] at at_; cases at_
  | some r =>
    refine List.mem_flatMap.mpr ⟨i, List.mem_map.mpr ⟨r, recordAt_mem found, recordAt_instant found⟩, ?_⟩
    exact List.mem_map.mpr ⟨k, mem_allStreams k, rfl⟩

/-- The bound that a setting of local time takes is enough for what it reaches. -/
theorem dueLeft_le_reachBound (s : State) : dueLeft (windowsOf s) s ≤ reachBound s := by
  have windows : ∀ l : List GridTime, (l.flatMap fun i => allStreams.map fun k => (i, k)).length = 8 * l.length := by
    intro l
    induction l with
    | nil => rfl
    | cons i l ih => rw [List.flatMap_cons, List.length_append, ih, List.length_cons]; simp [allStreams]; omega
  have deadlines := List.countP_le_length (l := windowsOf s) (p := fun p => isDueAt s p.1 p.2)
  rw [windowsOf, windows, show (instants s).length = s.timeline.length from List.length_map _] at deadlines
  have points : ∀ k ∈ allStreams, pointsLeft s k ≤
      (s.localTime.sec - (s.stream k).run.mark.sec + 1) * (s.stream k).config.rate.rate := fun k _ => by
    unfold pointsLeft
    have up := pointsUpTo_le (s.stream k).config.rate s.localTime
    have low : (s.stream k).run.mark.sec * (s.stream k).config.rate.rate ≤
        pointsUpTo (s.stream k).config.rate (s.stream k).run.mark := by unfold pointsUpTo; omega
    generalize (s.stream k).config.rate.rate = r at *
    generalize pointsUpTo (s.stream k).config.rate s.localTime = a at *
    generalize pointsUpTo (s.stream k).config.rate (s.stream k).run.mark = b at *
    generalize (s.stream k).run.mark.sec = m at *
    generalize s.localTime.sec = l at *
    have : (l + 1) * r ≤ (l - m + 1) * r + m * r := by
      rw [← Nat.add_mul]; exact Nat.mul_le_mul_right _ (by omega)
    omega
  have sum := sum_map_le points
  have fold : ∀ (f : StreamNo → Nat) (l : List StreamNo) (m : Nat), l.foldl (fun m k => m + f k) m = m + (l.map f).sum := by
    intro f l
    induction l with
    | nil => intro m; rfl
    | cons k l ih => intro m; rw [List.foldl_cons, ih, List.map_cons, List.sum_cons]; omega
  unfold dueLeft reachBound
  rw [fold]
  rw [windowsOf]
  omega

end Sys2Proof.Machine
end

