-- ==== Sys2Proof/Laws/SaneEvents.lean ====
section
/-! SUPPORT. `Sane` through the Timebase, the links, the request handlers and the resets: one lemma per event. -/

namespace Sys2Proof.Machine

set_option Elab.async false

/-! ## Updates of parts that `Sane` does not speak of -/

theorem Sane.withTimebase {s : State} (h : Sane s) (tb : Timebase) : Sane { s with timebase := tb } :=
  h.of rfl rfl h.within.notices h.within.requests h.within.passThrough h.within.received
    (centers_of rfl rfl h.within.answers) h.within.sets

theorem Sane.withStations {s : State} (h : Sane s) (v : Vector Station 1024) (e : Nat) :
    Sane { s with stations := v, latencyEnd := e } :=
  h.of rfl rfl h.within.notices h.within.requests h.within.passThrough h.within.received
    (centers_of rfl rfl h.within.answers) h.within.sets

theorem Sane.withCodeMap {s : State} (h : Sane s) (m : List (Nat × StationNo)) : Sane { s with codeMap := m } :=
  h.of rfl rfl h.within.notices h.within.requests h.within.passThrough h.within.received
    (centers_of rfl rfl h.within.answers) h.within.sets

theorem Sane.iteCodeMap {s : State} (h : Sane s) (b : Prop) [Decidable b] (m : List (Nat × StationNo)) :
    Sane (if b then { s with codeMap := m } else s) := by
  split
  · exact h.withCodeMap m
  · exact h

theorem Sane.withGlobals {s : State} (h : Sane s) (g : Globals) : Sane { s with globals := g } :=
  h.of rfl rfl h.within.notices h.within.requests h.within.passThrough h.within.received
    (centers_of rfl rfl h.within.answers) h.within.sets

theorem Sane.withPlan {s : State} (h : Sane s) (v : Vector PlanEntry 4096) : Sane { s with plan := v } :=
  h.of rfl rfl h.within.notices h.within.requests h.within.passThrough h.within.received
    (centers_of rfl rfl h.within.answers) h.within.sets

/-! ## The Timebase -/

theorem Sane.setInput {s : State} (h : Sane s) (i : InputId) (x : RefInput) : Sane (setInput i x s) := by
  cases i <;> exact h.withTimebase _

theorem Sane.changeInput {s : State} (h : Sane s) (i : InputId) (x : RefInput) (c : InputCause) :
    Sane (changeInput i x c s) := by
  unfold Machine.changeInput
  split
  · exact h.setInput _ _
  · exact (h.setInput _ _).pushNotice _

theorem Sane.changeMode {s : State} (h : Sane s) (tb : Timebase) (c : TimebaseCause) : Sane (changeMode tb c s) :=
  (h.withTimebase _).pushNotice _

theorem Sane.setLocalTime {s : State} (h : Sane s) (second : Nat) : Sane (setLocalTime second s) := by
  simp only [Machine.setLocalTime]
  split
  · exact (Sane.foldl (fun _ k h => h.stepStream _ k) _ ((h.withTimebase _).pushNotice _)).withStations _ _
  · split
    · exact (h.withTimebase _).reachAll
    · exact h.withTimebase _

theorem Sane.inputLost {s : State} (h : Sane s) (i : InputId) : Sane (inputLost i s) := by
  unfold Machine.inputLost loseLocked lockTo
  split
  · split <;> exact h.changeMode _ _
  · exact h

theorem Sane.goodSecondOf {s : State} (h : Sane s) (i : InputId) (second : Nat) (became : Bool) :
    Sane (goodSecondOf i second became s) := by
  unfold Machine.goodSecondOf lockTo
  split
  · split
    · exact h.setLocalTime _
    · split
      · exact (h.changeMode _ _).setLocalTime _
      · exact h
  all_goals
    split
    · exact (h.changeMode _ _).setLocalTime _
    · exact h

theorem Sane.marker {s : State} (h : Sane s) (i : InputId) : Sane (marker i s) := by
  simp only [Machine.marker]
  split
  · simp only [firstMarker]
    split
    · exact h
    · split
      · exact h.changeInput _ _ _
      · exact h.setInput _ _
  · split
    · simp only [acceptMarker]
      split
      · exact (h.changeInput _ _ _).goodSecondOf _ _ _
      · split
        · exact (h.changeInput _ _ _).inputLost _
        · exact h.changeInput _ _ _
    · exact h.setInput _ _

theorem Sane.windowMissed {s : State} (h : Sane s) (i : InputId) : Sane (windowMissed i s) := by
  simp only [Machine.windowMissed]
  split
  · exact h.setInput _ _
  · split
    · exact (h.changeInput _ _ _).inputLost _
    · exact h.changeInput _ _ _

theorem Sane.windowEnd {s : State} (h : Sane s) (i : InputId) : Sane (windowEnd i s) := by
  simp only [Machine.windowEnd]
  split
  · exact h
  · split
    · exact h
    · exact Sane.windowMissed (h.runClock _) i

theorem Sane.holdoverExpired {s : State} (h : Sane s) : Sane (holdoverExpired s) := by
  unfold Machine.holdoverExpired
  split
  · exact h
  · exact Sane.changeMode (h.runClock _) _ _

theorem Sane.latencyPeriodOver {s : State} (h : Sane s) : Sane (latencyPeriodOver s) :=
  (h.runClock _).withStations _ _

/-! ## The links -/

theorem Sane.lineReceived {s : State} (h : Sane s) (l : LineId) (bytes : List Byte) : Sane (lineReceived l bytes s) := by
  unfold Machine.lineReceived
  split
  · exact h
  · have counted : Sane (s.setLine l { s.line l with received := satInc (s.line l).received }) :=
      h.setLine _ _ (by exact h.within.received l)
    have same : ∀ x : LineLink, x.queue = (s.line l).queue → Sane ((s.setLine l
        { s.line l with received := satInc (s.line l).received }).setLine l x) := fun x hx =>
      counted.setLine _ _ (by rw [hx]; exact h.within.received l)
    dsimp only
    split
    · unfold classifyLine dropOnLine
      split
      · split
        · rename_i room
          refine counted.setLine _ _ ?_
          simp only [List.length_append, List.length_cons, List.length_nil]
          exact room
        · exact same _ (by simp)
      · split
        · rename_i room
          refine counted.of rfl rfl counted.within.notices counted.within.requests ?_ counted.within.received
            (centers_of rfl rfl counted.within.answers) counted.within.sets
          simp only [List.length_append, List.length_cons, List.length_nil]
          exact room
        · exact same _ (by simp)
    · exact same _ (by simp)

theorem Sane.centerReceived {s : State} (h : Sane s) (c : CenterId) (bytes : List Byte) :
    Sane (centerReceived c bytes s) := by
  unfold Machine.centerReceived
  split
  · exact h
  · have counted : Sane (s.setCenter c { s.center c with received := satInc (s.center c).received }) :=
      h.setCenter _ _ (by exact h.within.answers c)
    dsimp only
    split
    · exact counted.setCenter _ _ (by exact counted.within.answers c)
    · split
      · rename_i taken
        refine counted.of rfl rfl counted.within.notices ?_ counted.within.passThrough counted.within.received
          (centers_of rfl rfl counted.within.answers) counted.within.sets
        simp only [accepts, Config.inputCapacity, Bool.and_eq_true, decide_eq_true_eq] at taken
        simp only [List.length_append, List.length_cons, List.length_nil]
        exact taken.2.2
      · exact counted.setCenter _ _ (by exact counted.within.answers c)

theorem Sane.linkCameUp {s : State} (h : Sane s) (l : LinkId) : Sane (linkCameUp l s) := by
  cases l with
  | line l => exact h.setLine _ _ (by exact h.within.received l)
  | center c => exact h.setCenter _ _ (by exact h.within.answers c)

theorem Sane.linkWentDown {s : State} (h : Sane s) (l : LinkId) : Sane (linkWentDown l s) := by
  cases l with
  | line l => exact h.setLine _ _ (by exact h.within.received l)
  | center c => exact (h.abandon c).setCenter _ _ (by exact (h.abandon c).within.answers c)

/-! ## Taking and judging requests -/

theorem Sane.takeRequest {s : State} (h : Sane s) (row : Bool) (r : Request) {act : State → State}
    (ha : ∀ u, Sane u → Sane (act u)) : Sane (takeRequest row r act s) := by
  unfold Machine.takeRequest
  split
  · split
    · exact h
    · rename_i q rest e
      split
      · refine ha _ (h.of rfl rfl h.within.notices ?_ h.within.passThrough h.within.received
          (centers_of rfl rfl h.within.answers) h.within.sets)
        have := h.within.requests
        rw [e, List.length_cons] at this
        exact Nat.le_of_succ_le this
      · exact h
  · exact h

theorem Sane.withPayload {s : State} (h : Sane s) (r : Request) (n : Nat) {act : List Byte → State → State}
    (ha : ∀ p u, Sane u → Sane (act p u)) : Sane (withPayload r n act s) := by
  unfold Machine.withPayload
  split
  · exact ha _ s h
  · exact h.refuse _ _

theorem Sane.withStation {s : State} (h : Sane s) (r : Request) {act : StationNo → State → State}
    (ha : ∀ n u, Sane u → Sane (act n u)) : Sane (withStation r act s) := by
  unfold Machine.withStation
  split
  · exact ha _ s h
  · exact h.refuse _ _

theorem Sane.withStream {s : State} (h : Sane s) (r : Request) {act : StreamNo → State → State}
    (ha : ∀ k u, Sane u → Sane (act k u)) : Sane (withStream r act s) := by
  unfold Machine.withStream
  split
  · exact ha _ s h
  · exact h.refuse _ _

theorem Sane.withValue {α : Type} {s : State} (h : Sane s) (r : Request) (x : Option α) {act : α → State → State}
    (ha : ∀ v u, Sane u → Sane (act v u)) : Sane (withValue r x act s) := by
  unfold Machine.withValue
  split
  · exact ha _ s h
  · exact h.refuse _ _

theorem Sane.withSlot {s : State} (h : Sane s) (r : Request) {act : Option SlotNo → State → State}
    (ha : ∀ d u, Sane u → Sane (act d u)) : Sane (withSlot r act s) := by
  unfold Machine.withSlot
  split
  · split
    · exact ha _ s h
    · exact h.refuse _ _
  · exact ha _ s h

/-! ## The operations of the requests -/

theorem Sane.answerOrHold {s : State} (h : Sane s) (n : StationNo) (r : Request) (d : Option SlotNo) :
    Sane (answerOrHold n r d s) := by
  unfold Machine.answerOrHold
  split
  · exact h.answerRequest _ _ _
  · exact (h.holdAnswer _ _ _).setRun _ _

theorem Sane.disableStation {s : State} (h : Sane s) (n : StationNo) : Sane (disableStation n s) := by
  simp only [Machine.disableStation]
  have moved := ((h.setConfig n { (s.station n).config with enable := false }).withCodeMap
    (codeRemove (s.station n).config.code n s.codeMap)).moveStation n .disabled .disable (s.station n).run.restarted
  split
  · exact moved.leaveAwaited _
  · exact moved

theorem Sane.withdraw {s : State} (h : Sane s) (n : StationNo) : Sane (withdraw n s) :=
  ⟨h.store.withdraw n, by simpa [Machine.withdraw] using h.within.records, h.within.notices, h.within.requests,
    h.within.passThrough, h.within.received, (centers_of rfl rfl h.within.answers), h.within.sets⟩

theorem Sane.exchangeStation {s : State} (h : Sane s) (n : StationNo) (c : StationConfig) :
    Sane (exchangeStation n c s) := by
  simp only [Machine.exchangeStation]
  have gone := h.withdraw n
  have unmapped : Sane (if (s.station n).run.state = .disabled then Machine.withdraw n s
      else { Machine.withdraw n s with
        codeMap := codeRemove (s.station n).config.code n (Machine.withdraw n s).codeMap }) := by
    split
    · exact gone
    · exact gone.withCodeMap _
  have replaced := (unmapped.completeDeferrals n .aborted).setStation n
    ⟨c, .cleared (if c.enable then .awaiting else .disabled)⟩
  have mapped := fun m b => (replaced.iteCodeMap (c.enable = true) m).pushNotice b
  split
  · exact (mapped _ _).leaveAwaited n
  · exact mapped _ _

theorem Sane.beginDrain {s : State} (h : Sane s) (k : StreamNo) (r : Request) (d : Option SlotNo) :
    Sane (beginDrain k r d s) := by
  have drained := (h.setStreamRun k { (s.stream k).run with state := .draining } (h.within.sets k)).pushNotice
    (.streamState k (s.stream k).run.state .draining .drain)
  simp only [Machine.beginDrain]
  split
  · exact drained.answerRequest _ _ _
  · have held := drained.holdAnswer (by assumption) r (.stream k)
    exact held.setStreamRun _ _ (by exact held.within.sets k)

theorem Sane.cutStream {s : State} (h : Sane s) (k : StreamNo) : Sane (cutStream k s) :=
  (h.closeAll _ _).stopStream _ _

theorem Sane.clearStation {s : State} (h : Sane s) (n : StationNo) (mask : Nat) : Sane (clearStation n mask s) := by
  refine Sane.foldl (fun s c h => ?_) _ h
  split
  · exact h.clearLatch _ _
  · exact h

/-! ## Resets -/

/-- A state with an empty Timeline, every slot free, and no queued set. -/
theorem Sane.empty {t : State} (timeline : t.timeline = []) (free : t.freeSlots = 16384)
    (notices : t.notices.queue.length ≤ 256) (requests : t.inputQueue.length ≤ 4) (through : t.passThrough.length ≤ 64)
    (received : ∀ l, (t.line l).queue.length ≤ 32) (answers : ∀ c, (t.center c).answers.length ≤ 8)
    (sets : ∀ k, (t.stream k).run.queue.length ≤ 16) : Sane t :=
  ⟨⟨(by rw [timeline]; exact .nil), (by rw [timeline]; intro r m; cases m), (by simp [heldSlots, timeline, free])⟩,
    ⟨by rw [timeline]; exact Nat.zero_le _, notices, requests, through, received, answers, sets⟩⟩

theorem Sane.coldReset (s : State) : Sane (coldReset s) := by
  refine Sane.empty rfl rfl (Nat.zero_le _) (Nat.zero_le _) (Nat.zero_le _) (fun l => ?_) (fun c => ?_) (fun k => ?_)
  · simp [Machine.coldReset, State.line, LineLink.cold, LineLink.reset]
  · cases c <;> exact Nat.zero_le _
  · simp [Machine.coldReset, State.stream, State.reset, Stream.reset, StreamRun.reset]

theorem Sane.powerOnReset (s : State) : Sane (powerOnReset s) :=
  (Sane.coldReset s).withStations _ _

theorem Sane.warmReset {s : State} (h : Sane s) : Sane (warmReset s) := by
  refine Sane.foldl (fun s d h => ?_) _ (Sane.empty rfl rfl (Nat.zero_le _) h.within.requests h.within.passThrough
    (fun l => ?_) (fun c => ?_) (fun k => ?_))
  · unfold abortSlot
    split
    · exact h
    · exact (h.setSlot d none).placeAnswer _ _
  · have := h.within.received l
    simpa [State.line, LineLink.warm] using this
  · have := h.within.answers c
    cases c <;> exact this
  · simp [State.stream, Stream.warm, StreamRun.reset]

end Sys2Proof.Machine
end

