-- ==== Sys2Proof/Laws/Timebase.lean ====
section
/-! SUPPORT. What the operations of the Timebase do: the inputs and the Timebase fields after an update, the notice of an input's
change, a marker inside the window, a byte of a message line, and a setting of local time. -/

namespace Sys2Proof.Machine

set_option Elab.async false

/-! ## Fields -/

section
variable (s : State) (ns : Nat) (i : InputId) (x : RefInput)

@[simp] theorem runClock_mode : (s.runClock ns).timebase.mode = s.timebase.mode := rfl
@[simp] theorem runClock_firstPending : (s.runClock ns).timebase.firstPending = s.timebase.firstPending := rfl
@[simp] theorem runClock_holdoverTimer : (s.runClock ns).timebase.holdoverTimer = s.timebase.holdoverTimer := rfl
@[simp] theorem runClock_timeKnown : (s.runClock ns).timebase.timeKnown = s.timebase.timeKnown := rfl
@[simp] theorem runClock_preferred : (s.runClock ns).timebase.preferred = s.timebase.preferred := rfl
@[simp] theorem runClock_revert : (s.runClock ns).timebase.revert = s.timebase.revert := rfl
@[simp] theorem runClock_holdoverLimit : (s.runClock ns).timebase.holdoverLimit = s.timebase.holdoverLimit := rfl
@[simp] theorem runClock_input : (s.runClock ns).timebase.input i = s.timebase.input i := by cases i <;> rfl
@[simp] theorem inputOf_runClock : inputOf (s.runClock ns) i = inputOf s i := by cases i <;> rfl

@[simp] theorem setInput_mode : (setInput i x s).timebase.mode = s.timebase.mode := by cases i <;> rfl
@[simp] theorem setInput_firstPending : (setInput i x s).timebase.firstPending = s.timebase.firstPending := by cases i <;> rfl
@[simp] theorem setInput_holdoverTimer : (setInput i x s).timebase.holdoverTimer = s.timebase.holdoverTimer := by cases i <;> rfl
@[simp] theorem setInput_timeKnown : (setInput i x s).timebase.timeKnown = s.timebase.timeKnown := by cases i <;> rfl
@[simp] theorem setInput_preferred : (setInput i x s).timebase.preferred = s.timebase.preferred := by cases i <;> rfl
@[simp] theorem setInput_revert : (setInput i x s).timebase.revert = s.timebase.revert := by cases i <;> rfl
@[simp] theorem setInput_holdoverLimit : (setInput i x s).timebase.holdoverLimit = s.timebase.holdoverLimit := by cases i <;> rfl
@[simp] theorem setInput_localTime : (setInput i x s).localTime = s.localTime := by cases i <;> rfl
@[simp] theorem setInput_quiet (j : InputId) : (setInput i x s).quiet j = s.quiet j := by cases i <;> cases j <;> rfl
@[simp] theorem inputOf_setInput : inputOf (setInput i x s) i = x := by cases i <;> rfl
theorem inputOf_setInput_other {i j : InputId} (h : j ≠ i) : inputOf (setInput i x s) j = inputOf s j := by
  cases i <;> cases j <;> first | rfl | exact absurd rfl h

@[simp] theorem inputOf_pushNotice (b : NoticeBody) : inputOf (pushNotice b s) i = inputOf s i := by
  simp only [inputOf, pushNotice_timebase]

end

/-! ## Inputs -/

/-- An input that keeps its state pushes no notice. -/
theorem changeInput_same {i : InputId} {x : RefInput} {s : State} (h : x.qual = (inputOf s i).qual) (c : InputCause) :
    changeInput i x c s = setInput i x s := if_pos h

/-- An input that changes its state pushes its notice. -/
theorem changeInput_new {i : InputId} {x : RefInput} {s : State} (h : x.qual ≠ (inputOf s i).qual) (c : InputCause) :
    changeInput i x c s = pushNotice (.inputState i (inputOf s i).qual x.qual c) (setInput i x s) := if_neg h

@[simp] theorem changeInput_mode (i : InputId) (x : RefInput) (c : InputCause) (s : State) :
    (changeInput i x c s).timebase.mode = s.timebase.mode := by unfold changeInput; split <;> simp

@[simp] theorem changeInput_preferred (i : InputId) (x : RefInput) (c : InputCause) (s : State) :
    (changeInput i x c s).timebase.preferred = s.timebase.preferred := by unfold changeInput; split <;> simp

@[simp] theorem changeInput_revert (i : InputId) (x : RefInput) (c : InputCause) (s : State) :
    (changeInput i x c s).timebase.revert = s.timebase.revert := by unfold changeInput; split <;> simp

@[simp] theorem inputOf_changeInput (i : InputId) (x : RefInput) (c : InputCause) (s : State) :
    inputOf (changeInput i x c s) i = x := by unfold changeInput; split <;> simp

/-- The marker window in numbers (R133). -/
theorem inWindow_iff {x : RefInput} {m : Nat} (h : x.lastMarker = some m) (now : Nat) :
    x.inWindow now = true ↔ 1000000000 * (x.missed + 1) + m ≤ 2000 + now ∧ now ≤ 2000 + (1000000000 * (x.missed + 1) + m) := by
  simp [RefInput.inWindow, RefInput.expected, h, Config.second, Config.markerHalfWindow]

/-- A marker inside the window is accepted (R133). -/
theorem marker_accepted {i : InputId} {s : State} {m : Nat} (here : (inputOf s i).qual ≠ .absent)
    (last : (inputOf s i).lastMarker = some m) (opens : 1000000000 * ((inputOf s i).missed + 1) + m ≤ 2000 + s.elapsed)
    (closes : s.elapsed ≤ 2000 + (1000000000 * ((inputOf s i).missed + 1) + m)) : marker i s = acceptMarker i s := by
  simp [marker, here, (inWindow_iff last s.elapsed).2 ⟨opens, closes⟩]

/-- A good second, in numbers (R135). -/
theorem goodSecond_iff {x : RefInput} {second : Nat} : x.goodSecond = some second ↔
    ∃ l, x.lastSecond = some l ∧ l < 4294967295 ∧ x.message = some ⟨l + 1, true⟩ ∧ second = l + 1 := by
  unfold RefInput.goodSecond
  split
  · rename_i m l hm hl
    simp only [hm, hl, Config.lastSecond, Option.some.injEq, exists_eq_left']
    obtain ⟨sec, locked⟩ := m
    cases locked <;> simp <;> omega
  · rename_i h
    simp only [reduceCtorEq, false_iff, not_exists, not_and]
    intro l hl _ hm
    exact absurd hl (h _ _ hm)

/-! ## Message lines -/

/-- What one byte does: it is a start byte, or it joins what is being assembled; either way the line's idle time begins again. -/
theorem receiveByte_eq (i : InputId) (value : Byte) (fault : Bool) (s : State) : receiveByte i value fault s =
    (setInput i (if value = 0xA5 ∧ 110000000000 ≤ 115200 * (s.elapsed - s.quiet i) then (inputOf s i).startMessage fault
      else (inputOf s i).takeByte value fault) s).setQuiet i s.elapsed := by
  simp [receiveByte, lineWasIdle, Config.startByteBits, Config.second, Config.baud]

/-- A byte that joins a message of fewer than seven bytes. -/
theorem takeByte_joins {x : RefInput} {l : List Byte} {f : Bool} (h : x.assembly = some ⟨l, f⟩) (short : l.length < 7)
    (value : Byte) (fault : Bool) : x.takeByte value fault = { x with assembly := some ⟨l ++ [value], f || fault⟩ } := by
  have : l.length + 1 < 8 := by omega
  simp [RefInput.takeByte, h, Config.messageBytes, this]

/-- The eighth byte, at which the message is judged. -/
theorem takeByte_eighth {x : RefInput} {l : List Byte} {f : Bool} (h : x.assembly = some ⟨l, f⟩) (seven : l.length = 7)
    (value : Byte) (fault : Bool) : x.takeByte value fault = x.judge ⟨l ++ [value], f || fault⟩ := by
  simp [RefInput.takeByte, h, Config.messageBytes, seven]

/-! ## Settings of local time -/

/-- A first setting of more than 1 ms is a time step (R144). -/
theorem setLocalTime_step {second : Nat} {s : State} (first : s.timebase.firstPending = true)
    (far : 1000000 < (diffNs ⟨second, 0⟩ s.localTime).natAbs) : setLocalTime second s =
    timeStep (diffNs ⟨second, 0⟩ s.localTime)
      { s with timebase := { s.timebase with localTime := ⟨second, 0⟩, firstPending := false } } := by
  simp only [setLocalTime, first, Config.stepThreshold, far, and_self, if_true]

/-- Any other setting reaches what a forward one reaches, and does nothing more (R11, R144). -/
theorem setLocalTime_plain {second : Nat} {s : State}
    (h : s.timebase.firstPending = false ∨ (diffNs ⟨second, 0⟩ s.localTime).natAbs ≤ 1000000) : setLocalTime second s =
    (fun w : State => if earlier s.localTime ⟨second, 0⟩ then reachAll w else w)
      { s with timebase := { s.timebase with localTime := ⟨second, 0⟩, firstPending := false } } := by
  have : ¬(s.timebase.firstPending = true ∧ 1000000 < (diffNs ⟨second, 0⟩ s.localTime).natAbs) := by
    rintro ⟨a, b⟩
    rcases h with h | h
    · rw [h] at a; cases a
    · omega
  simp only [setLocalTime, Config.stepThreshold, this, if_false]

end Sys2Proof.Machine
end

