-- ==== Sys2Proof/Tests/Slice0.lean ====
section
/-! SUPPORT. Tests of the model on small states: the checks of WellFormed, the byte layouts, the examples of the rules, one step
of a command of each kind, and for each statement that has hypotheses a state and operands that meet them. -/

namespace Sys2Proof.Tests

set_option Elab.async false

open Sys2Proof Sys2Proof.Machine

/-! ## Small states -/

/-- A request of link C0. -/
def req (kind wait target : Nat) (payload : List Byte) : Request := ⟨.c0, 77, 9, kind, wait, target, payload.length, payload⟩

/-- A frame with its check. -/
def frame (type : Nat) (content : List Byte) : List Byte := withCheck (be16 5 ++ be16 77 ++ be16 type ++ content)

/-- A report of station 5 of `base`: code 301, shape 16 with 1 phasor and 1 analog. -/
def report (code shape : Nat) (clock : Nat) (t : GridTime) (values : List Nat) : List Byte :=
  let body := be16 code ++ be16 shape ++ be8 1 ++ be8 1 ++ be8 clock ++ be8 2 ++ beGrid t ++ be32 111 ++ be32 222 ++ be16 7 ++
    be16 0 ++ values.flatMap be32
  frame 0xB7A2 (be16 1 ++ be16 body.length ++ body)

/-- A request frame that C0 can receive. -/
def requestFrame (unit kind : Nat) : List Byte :=
  frame 0xB7A2 (be16 2 ++ be16 12 ++ be32 unit ++ be16 9 ++ be8 kind ++ be8 0 ++ be16 0 ++ be16 0)

/-- A descriptor with code 301 in a state. -/
def stationIn (state : StationState) : Station :=
  ⟨{ StationConfig.reset with enable := true, code := 301, shape := ⟨16, 1, 1⟩ },
    { StationRun.cleared state with silenceTimer := some 5000000000, acqTimer := some 6000000000 }⟩

/-- A QUALIFIED input, last marked at 1 s. -/
def qualifiedInput : RefInput :=
  { RefInput.reset with qual := .qualified, goodSeconds := 8, lastMarker := some 1000000000, lastSecond := some 999 }

/-- A stream that runs at 10 per second from second 1000, with one plan entry at 0. -/
def runningStream : Stream :=
  ⟨.reset, { StreamRun.reset with state := .running, floor := ⟨1000, 0⟩, mark := ⟨1000, 0⟩ }⟩

/-- LOCKED at 1000.15 s; station 5 is ADMITTED under code 301; stream 0 runs and plans its frequency; L0 to L3 are UP. -/
def base : State :=
  { State.reset with
    elapsed := 1150000000
    timebase := { Timebase.reset with mode := .locked .a, timeKnown := true, localTime := ⟨1000, 150000000⟩, inputA := qualifiedInput }
    stations := State.reset.stations.set 5 (stationIn .admitted)
    codeMap := [(301, 5)]
    streams := State.reset.streams.set 0 runningStream
    plan := State.reset.plan.set 0 ⟨5, .frequency⟩
    lines := Vector.replicate 4 { LineLink.reset with up := true } }

/-- A window that awaits station 5 until 1000.2 s. -/
def openWindow : Window := ⟨.opened, [5], some ⟨1000, 200000000⟩, 0⟩

/-- The record of 1000.1 s with a window of stream 0. -/
def recordWith (w : Window) : Record := ⟨⟨1000, 100000000⟩, .schedule, [], (Vector.replicate 8 Window.notUsed).set 0 w⟩

/-- `base` with that record. -/
def baseWith (w : Window) : State := { base with timeline := [recordWith w] }

/-- `base` with the state of station 5 changed. -/
def baseIn (state : StationState) : State := base.setStation 5 (stationIn state)

/-- A report as it is stored. -/
def stored : Report := ⟨false, 7, 111, 222, [(1, 2)], [3]⟩

/-- A set with a number of cells. -/
def setOf (q cells : Nat) : AlignedSet :=
  ⟨q, ⟨1000, 0⟩, .complete, ⟨true, false, false, false, false⟩, List.replicate cells ⟨.present, 0, 0⟩⟩

/-- C0 UP, with a set of stream 0 in transmission. -/
def sending (cells : Nat) : State :=
  { (base.setStream 0 { runningStream with run := { runningStream.run with queue := [setOf 4 cells, setOf 5 1] } }) with
    center0 := { CenterLink.reset with up := true, tx := some (.fragment 0 0 0 []) } }

/-- A held slot of stream 0. -/
def heldForStream : HeldAnswer := ⟨9, 16, 0, .c0, 77, .stream 0, 9000000000⟩

/-- A held slot of station 5. -/
def heldForStation : HeldAnswer := ⟨9, 7, 5, .c0, 77, .station 5, 9000000000⟩

/-- A state in which the agent takes a request: it is the head of the input queue. -/
def asked (r : Request) (s : State) : State := { s with inputQueue := [r] }

/-- Bytes of a message line, one byte time apart. -/
def run (b : Byte) (l : List Byte) : LineBytes := ⟨b, false, l.map (fun b => ⟨87000, b, false⟩)⟩

/-- A time message for second 1000, LOCKED. -/
def timeBytes : LineBytes := run 0xA5 [5, 0, 0, 3, 0xE8, 0, 0x10]

/-- Two records, of 1000.1 s and 1000.2 s, with windows of stream 0. -/
def two (w v : Window) : State :=
  { base with timeline := [recordWith w, { recordWith v with instant := ⟨1000, 200000000⟩ }] }

/-- A Timeline of 512 records: one of 1000.1 s, and the rest of 1000.3 s. -/
def fullWith (w v : Window) : State :=
  { base with timeline := recordWith w :: List.replicate 511 { recordWith v with instant := ⟨1000, 300000000⟩ } }

/-- The state after an outcome. -/
def after (o : Answered) : State :=
  match o with
  | .next s => s
  | .fault _ => State.reset
  | .refused _ => State.reset

/-- The state after a request row takes its request at once. -/
def ask (row : Nat → Request → Instr) (r : Request) (s : State) : State := after (exec (row 0 r) (asked r s))

/-! ## WellFormed: an ill-formed command for each check -/

theorem test_wellFormed_deadline :
    (Instr.deadlineExpiry ⟨0, 1000000000⟩ 0).wellFormed = false ∧ (Instr.deadlineExpiry ⟨4294967296, 0⟩ 0).wellFormed = false ∧
      (Instr.deadlineExpiry ⟨4294967295, 999999999⟩ 0).wellFormed = true := by decide

theorem test_wellFormed_fields :
    let ok := req 1 0 0 []
    Request.fits ok = true ∧ Request.fits { ok with source := 65536 } = false ∧ Request.fits { ok with tag := 65536 } = false ∧
      Request.fits { ok with kind := 256 } = false ∧ Request.fits { ok with wait := 256 } = false ∧
      Request.fits { ok with target := 65536 } = false ∧ Request.fits { ok with payloadLength := 65536 } = false := by decide

theorem test_wellFormed_delivered (r : Request) (h : r.delivered.length = 2023) : r.fits = false := by
  simp [Request.fits, h]

/-- Each request row refuses the request of another row. -/
theorem test_wellFormed_rows :
    ([Instr.identify, .readGlobal, .writeGlobal, .readStation, .writeStation, .exchangeStation, .enableStation, .disableStation,
        .admitStation, .acceptShape, .readCounters, .clearConditions, .readStream, .writeStream, .startStream, .readPlan,
        .writePlan, .readTimeline, .readTimebase, .writeTimebase, .readPort, .snapshot, .flush, .resetWarm, .resetCold,
        .badRequestKind] : List (Nat → Request → Instr)).all (fun row => !(row 0 (req 16 0 0 [0])).wellFormed) = true ∧
      (Instr.stopStreamDrain 0 (req 16 0 0 [1])).wellFormed = false ∧ (Instr.stopStreamCut 0 (req 16 0 0 [0])).wellFormed = false ∧
      (Instr.stopStreamBadMode 0 (req 16 0 0 [0])).wellFormed = false ∧ (Instr.identify 0 (req 1 2 0 [])).wellFormed = false ∧
      (Instr.badRequestKind 0 (req 27 0 0 [])).wellFormed = true ∧ (Instr.stopStreamBadMode 0 (req 16 0 0 [2])).wellFormed = true := by
  decide

/-! ## Layouts and grid time -/

theorem test_frameCheck_of_the_check_string :
    frameCheck [0x31, 0x32, 0x33, 0x34, 0x35, 0x36, 0x37, 0x38, 0x39] = 0xCBF43926#32 := by decide +kernel

theorem test_frameOk_bounds :
    frameOk (withCheck (List.replicate 9 0)) = false ∧ frameOk (withCheck (List.replicate 10 0)) = true ∧
      frameOk (withCheck (List.replicate 10 0) ++ [0]) = false := by decide +kernel

theorem test_numbers_are_most_significant_first :
    be32 0x01020304 = [1, 2, 3, 4] ∧ numAt32 [1, 2, 3, 4] 0 = 0x01020304 ∧ be24 0x010203 = [1, 2, 3] ∧ be16 0x0102 = [1, 2] := by
  decide

theorem test_carried_counts :
    carriedCounts 28 2 3 = some (2, 3) ∧ carriedCounts 8 2 3 = some (1, 0) ∧ carriedCounts 12 2 3 = none ∧
      carriedCounts 32 2 3 = none := by decide

theorem test_snap_at_the_tolerance :
    snap .r50 20 ⟨7, 100020000⟩ = some ⟨7, 100000000⟩ ∧ snap .r50 20 ⟨7, 100020001⟩ = none ∧
      snap .r50 20 ⟨7, 999980000⟩ = some ⟨8, 0⟩ ∧ snap .r50 20 ⟨4294967295, 999990000⟩ = none := by decide

theorem test_instants_of_thirty :
    nominalNs 30 1 = 33333333 ∧ isInstant .r30 ⟨0, 66666666⟩ = true ∧ isInstant .r30 ⟨0, 66666667⟩ = false ∧
      nextInstant .r30 ⟨0, 66666666⟩ = some ⟨0, 100000000⟩ := by decide

theorem test_due_stations :
    isDue .r10 .r50 ⟨0, 100000000⟩ = true ∧ isDue .r10 .r50 ⟨0, 20000000⟩ = false ∧ isDue .r50 .r10 ⟨0, 100000000⟩ = true := by decide

/-! ## One step of commands of each kind -/

theorem test_step_on_the_empty_queue_idles : step base = .next base := by rfl

theorem test_step_of_the_front_command :
    step { base with pending := [.windowEnd .b, .latencyPeriodEnd] } = exec (.windowEnd .b) { base with pending := [.latencyPeriodEnd] } := by
  rfl

theorem test_link_up_and_down :
    (after (exec (.linkUp 0 (.center .c1)) .reset)).center1.up = true ∧ ((after (exec (.linkDown 0 (.line 2)) base)).line 2).up = false := by
  decide +kernel

theorem test_reports_close_their_window :
    let s := after (exec (.reportIntake 0) (after (exec (.lineFrameReceived 0 2 (report 301 16 0 ⟨1000, 100004000⟩ [1, 2, 3])) (baseWith openWindow))))
    s.pointer = 2 ∧ s.timeline = [] ∧ s.freeSlots = 16384 ∧
      (s.stream 0).run.queue = [⟨0, ⟨1000, 100000000⟩, .complete, ⟨true, false, false, false, false⟩, [⟨.present, 111, 0⟩]⟩] ∧
      (s.stream 0).run.floor = ⟨1000, 100000000⟩ := by decide +kernel

theorem test_schedule_point_creates_a_record :
    let s := after (exec (.schedulePoint 0) base)
    s.timeline = [recordWith openWindow] ∧ (s.stream 0).run.mark = ⟨1000, 100000000⟩ := by decide +kernel

theorem test_deadline_expiry_closes_and_counts :
    let s := after (exec (.deadlineExpiry ⟨1000, 100000000⟩ 0) (baseWith openWindow))
    s.localTime = ⟨1000, 200000000⟩ ∧ s.timeline = [] ∧ (s.station 5).run.counters.missing = 1 ∧
      (s.stream 0).run.queue.map (·.cause) = [.deadline] := by decide +kernel

theorem test_missed_window_counts :
    (after (exec (.windowEnd .a) base)).timebase.inputA.missed = 1 ∧
      (after (exec (.windowEnd .a) base)).elapsed = 2000002001 := by decide +kernel

theorem test_time_message_and_marker :
    let told := after (exec (.timeMessage 0 .a timeBytes) base)
    let s := after (exec (.marker 849391000 .a) told)
    told.timebase.inputA.message = some ⟨1000, true⟩ ∧ told.timebase.inputA.assembly = none ∧ told.quietA = 1150609000 ∧
      s.timebase.inputA.lastSecond = some 1000 ∧ s.timebase.localTime = ⟨1000, 0⟩ := by decide +kernel

/-- A start byte counts an error only where a message is being assembled; ten idle byte times and its own make it one. -/
theorem test_message_cut_short_counts :
    let begun := after (exec (.messageCutShort 0 .b) base)
    let cut := after (exec (.messageCutShort 954862 .b) begun)
    let joined := after (exec (.messageCutShort 954861 .b) begun)
    begun.timebase.inputB.messageErrors = 0 ∧ begun.timebase.inputB.assembly = some ⟨[0xA5], false⟩ ∧
      cut.timebase.inputB.messageErrors = 1 ∧ cut.timebase.inputB.assembly = some ⟨[0xA5], false⟩ ∧
      joined.timebase.inputB.messageErrors = 0 ∧ joined.timebase.inputB.assembly = some ⟨[0xA5, 0xA5], false⟩ := by decide +kernel

/-- Bytes with no start byte before them are ignored. -/
theorem test_stray_bytes_are_ignored :
    (after (exec (.timeMessage 0 .a (run 1 [2, 3, 4, 5, 6, 7, 8, 9])) base)).timebase = (base.runClock 696000).timebase := by
  decide +kernel

theorem test_station_timers :
    ((after (exec (.silenceTimerExpiry 5) base)).station 5).run.state = .silent ∧
      ((after (exec (.acquisitionTimerExpiry 5) (baseIn .acquiring))).station 5).run.state = .awaiting := by decide +kernel

theorem test_identify_is_answered_on_its_link :
    let s := ask .identify (req 1 0 0 []) { base with center0 := { CenterLink.reset with up := true } }
    s.center0.tx.isSome = true ∧ s.center0.answers = [] := by decide +kernel

theorem test_request_frame_joins_the_input_queue :
    (after (exec (.centerFrameReceived 0 .c0 (requestFrame 1 2)) { base with center0 := { CenterLink.reset with up := true } })).inputQueue =
      [req 2 0 0 []] := by decide +kernel

theorem test_enable_station :
    let s := ask .enableStation (req 7 1 6 []) (base.setConfig 6 { StationConfig.reset with code := 302 })
    (s.station 6).run.state = .awaiting ∧ (s.station 6).run.deferrals = [0] ∧ s.codeMap = [(301, 5), (302, 6)] ∧
      (s.slot 0).isSome = true := by decide +kernel

theorem test_disable_station :
    let s := ask .disableStation (req 8 0 5 []) (baseWith openWindow)
    (s.station 5).run.state = .disabled ∧ s.codeMap = [] ∧ s.timeline = [] ∧ s.center0.answers.map (·.result) = [.ok] := by
  decide +kernel

theorem test_read_counters_answers :
    (ask .readCounters (req 11 0 5 []) base).center0.answers =
      [⟨77, 9, 11, 5, .ok, [0, 0, 0, 0, 0, 0]⟩] := by decide +kernel

theorem test_write_plan :
    (ask .writePlan (req 18 0 1 [0, 0, 1, 0, 9, 1, 0]) { base with streams := State.reset.streams }).plan[0] = ⟨9, .frequency⟩ := by
  decide +kernel

theorem test_start_and_cut :
    let s := ask .stopStreamCut (req 16 1 0 [1]) (baseWith openWindow)
    ((ask .startStream (req 15 0 1 []) base).stream 1).run.state = .running ∧ (s.stream 0).run.state = .stopped ∧
      s.center0.answers = [⟨77, 9, 16, 0, .ok, [1]⟩] := by decide +kernel

theorem test_stop_drain_is_held :
    let s := ask .stopStreamDrain (req 16 1 0 [0]) (baseWith openWindow)
    (s.stream 0).run.state = .draining ∧ (s.stream 0).run.pendingStop = some 0 ∧ s.center0.answers = [] := by decide +kernel

theorem test_flush_closes :
    ((ask .flush (req 24 0 0 []) (baseWith openWindow)).stream 0).run.queue.map (·.cause) = [.flushed] := by
  decide +kernel

theorem test_bad_requests :
    (ask .badRequestKind (req 27 0 0 []) base).center0.answers.map (·.result) = [.badRequest] ∧
      (ask .stopStreamBadMode (req 16 0 0 [2]) base).center0.answers.map (·.result) = [.badRequest] ∧
      (ask .readStation (req 4 0 1024 []) base).center0.answers.map (·.result) = [.badTarget] := by decide +kernel

theorem test_fragments_and_set :
    let s := after (exec (.setFragmentComplete 0 .c0) (sending 121))
    (match s.center0.tx with | some (.fragment k i d _) => (k, i, d) == (0, 1, 0) | _ => false) = true ∧
      ((after (exec (.setFragmentComplete 0 .c0) (sending 120))).stream 0).run.sent = 1 := by decide +kernel

theorem test_abandoned_set :
    ((after (exec (.linkDown 0 (.center .c0)) (sending 121))).stream 0).run.discarded = 1 := by decide +kernel

/-! ## States and operands that meet the hypotheses of the statements -/

/-- Each request row can carry its payload. -/
theorem test_witness_carried_and_offered :
    (∀ k ∈ [1, 2, 4, 7, 8, 9, 10, 11, 13, 15, 19, 20, 22, 24, 25, 26], requestCarries (req k 1 0 []) k 0) ∧
      (∀ k ∈ [16, 23], requestCarries (req k 0 0 [0]) k 1) ∧
      (∀ k ∈ [(3, 9), (5, 32), (6, 33), (12, 2), (14, 19), (17, 3), (19, 8), (21, 4)],
        requestCarries (req k.1 0 0 (List.replicate k.2 0)) k.1 k.2) ∧
      requestCarries (req 18 0 0 [0, 0, 1, 0, 9, 1, 0]) 18 (3 + 4 * byteAt (req 18 0 0 [0, 0, 1, 0, 9, 1, 0]).delivered 2) := by
  refine ⟨?_, ?_, ?_, ?_⟩ <;> simp only [requestCarries] <;> decide

/-- Each request is offered in a state that differs from any other in its input queue alone: the states below, so asked, meet the
hypotheses of a request row together with that of its request. -/
theorem test_witness_offered (r : Request) (s : State) :
    (asked r s).offers r ∧ (asked r s).stations = s.stations ∧ (asked r s).codeMap = s.codeMap ∧
      (asked r s).streams = s.streams ∧ (asked r s).plan = s.plan ∧ (asked r s).timeline = s.timeline ∧
      (asked r s).freeSlots = s.freeSlots ∧ (asked r s).slots = s.slots ∧ (asked r s).notices = s.notices ∧
      (asked r s).timebase = s.timebase ∧ (asked r s).lines = s.lines ∧ (asked r s).globals = s.globals :=
  ⟨rfl, rfl, rfl, rfl, rfl, rfl, rfl, rfl, rfl, rfl, rfl, rfl⟩

/-- A request that is not the head is not taken. -/
theorem test_other_requests_wait :
    let none_ := after (exec (.flush 0 (req 24 0 0 [])) (baseWith openWindow))
    let other := after (exec (.flush 0 (req 24 0 0 [])) (asked (req 24 1 0 []) (baseWith openWindow)))
    none_.timeline = [recordWith openWindow] ∧ none_.center0.answers = [] ∧ other.timeline = [recordWith openWindow] ∧
      other.inputQueue = [req 24 1 0 []] ∧ other.center0.answers = [] := by decide +kernel

/-- A payload of a wrong length, and one that the frame did not deliver. -/
theorem test_witness_fails_length :
    (∀ k ∈ [1, 2, 3, 4, 5, 6, 7, 8, 9, 10, 11, 12, 13, 14, 15, 16, 17, 20, 21, 22, 23, 24, 25, 26],
        requestFailsLength (req k 0 0 []) k 77) ∧
      (∀ k ∈ [1, 2, 4, 7, 8, 9, 10, 11, 13, 15, 16, 19, 20, 22, 23, 24, 25, 26],
        requestFailsLength (req k 0 0 [0, 0, 0]) k 0 ∧ requestFailsLength (req k 0 0 [0, 0, 0]) k 1) ∧
      requestFailsLength (req 19 0 0 [0]) 19 0 ∧ requestFailsLength (req 19 0 0 [0]) 19 8 ∧
      requestFailsLength (req 18 0 0 [0, 0, 1]) 18 (3 + 4 * byteAt (req 18 0 0 [0, 0, 1]).delivered 2) ∧
      requestFailsLength { req 3 0 0 [] with payloadLength := 9 } 3 9 ∧
      requestFailsLength (req 16 0 0 [0, 0]) 16 1 ∧ stopMode (req 16 0 0 [0, 0]) = some 0 ∧
      requestFailsLength (req 16 0 0 [1, 0]) 16 1 ∧ stopMode (req 16 0 0 [1, 0]) = some 1 ∧
      requestFailsLength (req 16 0 0 []) 16 1 ∧ stopMode (req 16 0 0 []) = none ∧
      requestCarries (req 4 0 1024 []) 4 0 ∧ requestCarries (req 16 0 8 [0]) 16 1 ∧ requestCarries (req 22 0 6 []) 22 0 := by
  simp only [requestCarries, requestFailsLength]
  decide

theorem test_witness_kinds :
    ¬(1 ≤ (req 0 0 0 []).kind ∧ (req 0 0 0 []).kind ≤ 26 ∧ (req 0 0 0 []).wait ≤ 1) ∧
      ¬(1 ≤ (req 26 2 0 []).kind ∧ (req 26 2 0 []).kind ≤ 26 ∧ (req 26 2 0 []).wait ≤ 1) := by decide

theorem test_witness_next_instant :
    gridValid ⟨4294967295, 899999999⟩ = true ∧ nextInstant .r10 ⟨4294967295, 899999999⟩ = some ⟨4294967295, 900000000⟩ ∧
      gridValid ⟨4294967295, 900000000⟩ = true ∧ nextInstant .r10 ⟨4294967295, 900000000⟩ = none := by decide

/-- Local time short of the largest grid time by less than the clock runs, and by exactly as much. -/
theorem test_witness_clock :
    gridValid base.localTime = true ∧ gridValid ⟨4294967295, 999999998⟩ = true ∧
      addNs ⟨4294967295, 999999998⟩ 1 = ⟨4294967295, 999999999⟩ ∧ addNs ⟨4294967295, 999999998⟩ 2 = ⟨4294967295, 999999999⟩ ∧
      addNs ⟨7, 999999999⟩ 1 = ⟨8, 0⟩ := by decide

theorem test_witness_snap : gridValid ⟨4294967295, 999999999⟩ = true ∧ 500 ≤ 500 ∧
    snap .r120 500 ⟨4294967295, 991666666⟩ = some ⟨4294967295, 991666666⟩ := by decide

theorem test_witness_due : instantIndex .r120 ⟨0, 991666666⟩ = some 119 ∧ isDue .r60 .r120 ⟨0, 991666666⟩ = false ∧
    instantIndex .r120 ⟨0, 983333333⟩ = some 118 ∧ isDue .r60 .r120 ⟨0, 983333333⟩ = true := by decide

/-- Receptions: a DOWN link, a failing frame, room and none in either queue. -/
theorem test_witness_line_frames :
    let transport := frame 0xB7A2 [0, 0, 0, 0]
    let other := frame 0x1234 [0, 0, 0, 0]
    (State.reset.line 3).up = false ∧ (base.line 3).up = true ∧ frameOk [] = false ∧ frameOk transport = true ∧
      frameType transport = base.globals.transportType ∧ (base.line 3).queue.length < 32 ∧
      32 ≤ ((base.setLine 3 { base.line 3 with queue := List.replicate 32 ⟨[], gridZero⟩ }).line 3).queue.length ∧
      frameOk other = true ∧ frameType other ≠ base.globals.transportType ∧ base.passThrough.length < 64 ∧
      64 ≤ { base with passThrough := List.replicate 64 [] : State }.passThrough.length := by decide +kernel

theorem test_answers_and_frames_in_bytes :
    checkValue [0x31, 0x32, 0x33, 0x34, 0x35, 0x36, 0x37, 0x38, 0x39] = 0xCBF43926 ∧
      frameSource (frame 0x1234 [9, 8]) = 77 ∧ frameType (frame 0x1234 [9, 8]) = 0x1234 ∧
      frameContent (frame 0x1234 [9, 8]) = [9, 8] ∧
      answerContent 7 ⟨77, 9, 1, 5, .busy, [3]⟩ = [0, 0, 0, 7, 0, 9, 1, 8, 0, 5, 0, 1, 3] := by decide +kernel

theorem test_witness_center_frames :
    let bytes := requestFrame 0 1
    let s : State := { base with center0 := { CenterLink.reset with up := true } }
    (base.center .c0).up = false ∧ (s.center .c0).up = true ∧ frameOk bytes = true ∧ isRequestFrame s bytes = true ∧
      accepts s .c0 bytes = true ∧ accepts s .c0 (requestFrame 1 26) = true ∧ accepts s .c0 (requestFrame 0 2) = false ∧
      accepts { s with inputQueue := List.replicate 4 (req 1 0 0 []) } .c0 bytes = false ∧
      isRequestFrame s (frame 0x1234 [0, 0, 0, 0]) = false ∧ frameOk (frame 0x1234 [0, 0, 0, 0]) = true := by decide +kernel

theorem test_witness_abandoned :
    txStream (base.center .c0).tx = none ∧ ((sending 1).center .c0).tx = some (.fragment 0 0 0 []) ∧
      ((sending 1).stream 0).run.queue = setOf 4 1 :: [setOf 5 1] := by decide +kernel

/-- The last line of the turn, and the first. -/
theorem test_witness_intake :
    let f : QueuedFrame := ⟨[], gridZero⟩
    let last := base.setLine 3 { base.line 3 with queue := [f] }
    let first := base.setLine 0 { base.line 0 with queue := [f, f] }
    (∀ j : Fin 4, j < 3 → (last.line (last.pointer + 1 + j)).queue = []) ∧ (last.line (last.pointer + 1 + 3)).queue = f :: [] ∧
      (∀ j : Fin 4, j < 0 → (first.line (first.pointer + 1 + j)).queue = []) ∧
      (first.line (first.pointer + 1 + 0)).queue = f :: [f] ∧ (∀ l, (base.line l).queue = []) := by decide +kernel

/-- A MALFORMED report, an UNKNOWN_CODE one under either latch state, OFF_GRID, FUTURE, and good ones in FREE and LOCKED. -/
theorem test_witness_reports :
    let good := parseReport (report 301 16 0 ⟨1000, 100004000⟩ [1, 2, 3])
    parseReport (report 301 16 0 ⟨1000, 1000000000⟩ []) = none ∧
      good.isSome = true ∧ good.map (·.code) = some 301 ∧ good.map (·.shape) = some (base.station 5).config.shape ∧
      codeLookup base.codeMap 301 = some 5 ∧ codeLookup base.codeMap 302 = none ∧ (base.line 0).latchSet = false ∧
      ((base.setLine 0 { base.line 0 with latchSet := true }).line 0).latchSet = true ∧
      snap (base.station 5).config.rate (base.station 5).config.snapTol ⟨1000, 100004000⟩ = some ⟨1000, 100000000⟩ ∧
      snap (base.station 5).config.rate (base.station 5).config.snapTol ⟨1000, 110000000⟩ = none ∧
      base.timebase.mode ≠ .free ∧ State.reset.timebase.mode = .free ∧
      earlier (addNs base.localTime (1000000 * base.globals.futureTolerance)) ⟨1000, 160000000⟩ = true ∧
      earlier (addNs base.localTime (1000000 * base.globals.futureTolerance)) ⟨1000, 100000000⟩ = false ∧
      ((takeGoodReport 5 ⟨1000, 100000000⟩ false false ⟨1000, 100000000⟩ base).station 5).run.state = .admitted ∧
      ((takeGoodReport 5 ⟨1000, 100000000⟩ false false ⟨1000, 100000000⟩ (baseIn .held)).station 5).run.state ≠ .admitted := by
  decide +kernel

/-- Reports that the form check lets pass, with every declared value and with fewer, and one of another shape. -/
theorem test_witness_parsed_reports :
    let fields := fun (bytes : List Byte) => (parseReport bytes).map fun p => (p.phasors, p.analogs, p.short)
    fields (report 301 16 0 ⟨1000, 0⟩ [1, 2, 3]) = some ([(1, 2)], [3], false) ∧
      fields (report 301 16 0 ⟨1000, 0⟩ [1, 2]) = some ([(1, 2)], [], true) ∧
      fields (report 301 16 0 ⟨1000, 0⟩ []) = some ([], [], true) ∧
      (parseReport (report 301 17 0 ⟨1000, 0⟩ [])).map (·.shape) = some ⟨17, 1, 1⟩ ∧
      (base.station 5).config.shape ≠ ⟨17, 1, 1⟩ ∧ codeLookup base.codeMap 301 = some 5 := by decide +kernel

theorem test_witness_placement :
    let t : GridTime := ⟨1000, 100000000⟩
    let next : GridTime := ⟨1000, 200000000⟩
    let stopped : State := { base with streams := State.reset.streams }
    let full := fullWith openWindow openWindow
    let cascade := fullWith openWindow { openWindow with state := .ready .deadline }
    let present : State := { baseWith openWindow with timeline := [{ recordWith openWindow with arrivals := [(5, stored)] }] }
    recordAt base t = none ∧ anyWants base t = true ∧ base.timeline.length < 512 ∧
      anyWants stopped t = false ∧ anyPassed stopped t = false ∧
      anyWants base ⟨1000, 0⟩ = false ∧ anyPassed base ⟨1000, 0⟩ = true ∧ recordAt base ⟨1000, 0⟩ = none ∧
      512 ≤ full.timeline.length ∧ recordAt full next = none ∧ anyWants full next = true ∧
      full.timeline.head?.map (fun o => earlier o.instant next) = some true ∧
      anyWants (forceClose t full) next = true ∧ anyWants (forceClose t cascade) next = false ∧
      anyWants (full.setStreamRun 0 .reset) next = false ∧
      recordAt (baseWith openWindow) t = some (recordWith openWindow) ∧ 0 < (baseWith openWindow).freeSlots ∧
      arrivalOf (recordWith openWindow).arrivals 5 = none ∧ lateInRecord base (recordWith openWindow) = false ∧
      lateInRecord base (recordWith { openWindow with state := .closed .deadline }) = true ∧
      (recordAt present t).map (fun r => (arrivalOf r.arrivals 5).isSome) = some true := by decide +kernel

/-- An instant that a stream still wants, before the oldest record of a full Timeline. -/
theorem test_witness_store_full :
    let full : State := { base with timeline := List.replicate 512 { recordWith openWindow with instant := ⟨1001, 0⟩ } }
    recordAt full ⟨1000, 100000000⟩ = none ∧ anyWants full ⟨1000, 100000000⟩ = true ∧ 512 ≤ full.timeline.length ∧
      full.timeline.head?.map (fun o => earlier ⟨1000, 100000000⟩ o.instant) = some true := by decide +kernel

/-- No free slot: the report's own record is the oldest, or another is, whose forced close leaves it or closes it in a cascade. -/
theorem test_witness_no_free_slot :
    let t : GridTime := ⟨1000, 100000000⟩
    let next : GridTime := ⟨1000, 200000000⟩
    let left : State := { two openWindow openWindow with freeSlots := 0 }
    let gone : State := { two openWindow { openWindow with state := .ready .deadline } with freeSlots := 0 }
    left.freeSlots = 0 ∧ left.timeline.head?.map (·.instant) = some t ∧ t ≠ next ∧
      (recordAt left t).map (fun r => (arrivalOf r.arrivals 5).isNone) = some true ∧
      (recordAt left next).map (fun r => (arrivalOf r.arrivals 5).isNone) = some true ∧
      (recordAt (forceClose t left) next).isSome = true ∧ (recordAt gone next).isSome = true ∧
      recordAt (forceClose t gone) next = none ∧ anyPassed (forceClose t gone) next = true := by decide +kernel

/-- A window in each state at the entered instant, an OPEN one that the arrival empties, and a record of another instant. -/
theorem test_witness_entry :
    let t : GridTime := ⟨1000, 100000000⟩
    (recordWith openWindow).instant = t ∧ ({ recordWith openWindow with instant := gridZero : Machine.Record }).instant ≠ t ∧
      (recordWith openWindow).windows[(1 : Fin 8)].state = .notUsed ∧ openWindow.state = .opened ∧ openWindow.waiting = true ∧
      { openWindow with state := .ready .deadline : Window }.waiting = true ∧ 5 ∈ openWindow.awaited ∧
      openWindow.awaited.filter (· ≠ 5) = [] ∧ (base.stream 0).config.closeOnComplete = true := by decide +kernel

/-- Arrival maps and records in order, and an instant that no record has. -/
theorem test_witness_ordered :
    [((2 : StationNo), stored), (5, stored)].Pairwise (fun a b => a.1 < b.1) ∧
      (two openWindow openWindow).timeline.Pairwise (fun a b => earlier a.instant b.instant = true) ∧
      ∀ q ∈ (two openWindow openWindow).timeline, q.instant ≠ gridZero := by decide +kernel

/-- Two answers that station 5 defers, whose slots are held for it; they end in the order of the deferrals. -/
theorem test_witness_deferrals :
    let s := ((base.setSlot 1 (some heldForStation)).setSlot 3 (some { heldForStation with tag := 10 })).setRun 5
      { (base.station 5).run with deferrals := [3, 1] }
    let t := completeDeferrals 5 .failed s
    (∀ d ∈ (s.station 5).run.deferrals, ∃ h, s.slot d = some h ∧ h.op = .station 5) ∧ s.slot 0 = none ∧
      t.center0.answers.map (fun a => (a.tag, a.result)) = [(10, .failed), (9, .failed)] ∧
      (t.station 5).run.deferrals = [] ∧ t.slot 1 = none ∧ t.slot 3 = none := by
  refine ⟨fun d m => ?_, by decide +kernel⟩
  obtain rfl | rfl : d = 3 ∨ d = 1 := by simpa [State.setRun, State.setStation, State.station] using m
  · exact ⟨_, rfl, rfl⟩
  · exact ⟨_, rfl, rfl⟩

/-- ACQUIRING just below the acquire count and at it. -/
theorem test_witness_acquisition :
    let s := baseIn .acquiring
    let at7 := s.setRun 5 { (s.station 5).run with goodCount := 7 }
    (s.station 5).run.state = .acquiring ∧ (at7.station 5).run.state = .acquiring ∧ (s.station 5).run.goodCount + 1 < 8 ∧
      (at7.station 5).run.lastFresh = none ∧ (at7.station 5).config.acquire ≤ (at7.station 5).run.goodCount + 1 := by decide +kernel

theorem test_witness_good_reports :
    let silent := baseIn .silent
    let again := silent.setConfig 5 { (silent.station 5).config with reacquire := true }
    let one := fun s : State => s.setConfig 5 { (s.station 5).config with acquire := 1 }
    ((baseIn .held).station 5).run.state = .held ∧ (base.station 5).run.state = .admitted ∧ (silent.station 5).run.state = .silent ∧
      (silent.station 5).config.reacquire = false ∧ (again.station 5).config.reacquire = true ∧
      ((baseIn .awaiting).station 5).run.state = .awaiting ∧ 1 < ((baseIn .awaiting).station 5).config.acquire ∧
      ((one (baseIn .awaiting)).station 5).config.acquire ≤ 1 ∧ 0 < ((one (baseIn .awaiting)).station 5).config.acquire ∧
      1 < (again.station 5).config.acquire ∧ ((one again).station 5).config.acquire ≤ 1 := by decide +kernel

/-- A return state of each kind, in SHAPE_PENDING and in SHAPE_HELD. -/
theorem test_witness_shape_reverts :
    let s := fun (state : StationState) (back : ReturnState) =>
      (baseIn state).setRun 5 { (stationIn state).run with returnState := some back }
    (∀ back ∈ [ReturnState.acquiring, .held, .admitted],
      ((s .shapePending back).station 5).run.state = .shapePending ∧ ((s .shapePending back).station 5).run.returnState = some back ∧
        ((s .shapeHeld back).station 5).run.state = .shapeHeld ∧ ((s .shapeHeld back).station 5).run.returnState = some back) ∧
      ((advanceStation 5 ⟨1000, 0⟩ false (s .shapeHeld .acquiring)).station 5).run.state = .acquiring ∧
      ((advanceStation 5 ⟨1000, 0⟩ false (s .shapeHeld .acquiring)).station 5).run.goodCount = 1 ∧
      ((advanceStation 5 ⟨1000, 0⟩ false (s .shapePending .admitted)).station 5).run.state = .admitted := by decide +kernel

/-- SHAPE_PENDING with another shape, and with the same one before and at the third report. -/
theorem test_witness_shapes :
    let x : Shape := ⟨17, 0, 0⟩
    let pending := fun c : Nat =>
      (baseIn .shapePending).setRun 5 { (stationIn .shapePending).run with pendingShape := some x, confirmations := c }
    ((pending 1).station 5).run.pendingShape ≠ some ⟨18, 0, 0⟩ ∧ ((pending 1).station 5).run.confirmations + 1 < 3 ∧
      ((pending 2).station 5).run.confirmations = 2 ∧ ((pending 2).station 5).run.pendingShape = some x ∧
      ((pending 2).station 5).run.state = .shapePending ∧ ((pending 2).station 5).config.shapeAuto = false ∧
      (((pending 2).setConfig 5 { (stationIn .shapePending).config with shapeAuto := true }).station 5).config.shapeAuto = true ∧
      ((baseIn .acquiring).station 5).run.state = .acquiring ∧ ((baseIn .awaiting).station 5).run.state = .awaiting := by
  decide +kernel

/-- SHAPE_HELD, with the pending shape and another. -/
theorem test_witness_held_shapes :
    let x : Shape := ⟨17, 0, 0⟩
    let s := (baseIn .shapeHeld).setRun 5 { (stationIn .shapeHeld).run with pendingShape := some x, confirmations := 3 }
    (s.station 5).run.state = .shapeHeld ∧ (s.station 5).run.pendingShape = some x ∧
      (s.station 5).run.pendingShape ≠ some ⟨18, 0, 0⟩ ∧
      ((takeShapeChange 5 ⟨18, 0, 0⟩ s).station 5).run.state = .shapePending := by decide +kernel

theorem test_witness_station_timers :
    (base.station 5).run.silenceTimer = some 5000000000 ∧ (base.station 5).run.state = .admitted ∧
      ((baseIn .shapeHeld).station 5).run.silenceTimer = some 5000000000 ∧
      ((baseIn .shapeHeld).station 5).run.state = .shapeHeld ∧ ((baseIn .held).station 5).run.state = .held ∧
      ((baseIn .acquiring).station 5).run.acqTimer = some 6000000000 ∧ ((baseIn .acquiring).station 5).run.state = .acquiring := by
  decide +kernel

/-- Enabling: refused without a code, refused with a code in use, accepted; with a slot free and with none. -/
theorem test_witness_enable :
    let six := base.setConfig 6 { StationConfig.reset with code := 302 }
    let taken := base.setConfig 6 { StationConfig.reset with code := 301 }
    (base.station 6).config.code = 0 ∧ (base.station 5).run.state ≠ .disabled ∧ (taken.station 6).run.state = .disabled ∧
      (codeLookup taken.codeMap 301).isSome = true ∧ (six.station 6).run.state = .disabled ∧ (six.station 6).config.code ≠ 0 ∧
      codeLookup six.codeMap 302 = none ∧ freeSlot six = some 0 ∧
      freeSlot { six with slots := Vector.replicate 4 (some heldForStream) } = none ∧ (6 : StationNo).val = 6 := by decide +kernel

/-- The slots before the lowest free one are held. -/
theorem test_witness_free_slot :
    freeSlot (base.setSlot 0 (some heldForStream)) = some 1 ∧ freeSlot (base.setSlot 1 (some heldForStream)) = some 0 := by
  decide +kernel

theorem test_witness_disable_admit_accept :
    let pending := (baseIn .shapeHeld).setRun 5 { (stationIn .shapeHeld).run with pendingShape := some ⟨17, 0, 0⟩ }
    (base.station 6).run.state = .disabled ∧ ((baseIn .held).station 5).run.state = .held ∧ (base.station 5).run.state ≠ .held ∧
      (base.station 5).run.state ≠ .shapeHeld ∧ (pending.station 5).run.state = .shapeHeld ∧
      (pending.station 5).run.pendingShape = some ⟨17, 0, 0⟩ ∧ (5 : StationNo).val = (req 8 0 5 []).target := by decide +kernel

/-- ACCEPT_SHAPE with the WAIT flag: its answer is held in a free slot, and without one it is BUSY. -/
theorem test_accept_shape_waits :
    let s := (baseIn .shapeHeld).setRun 5 { (stationIn .shapeHeld).run with pendingShape := some ⟨17, 0, 0⟩ }
    let held := ask .acceptShape (req 10 1 5 []) s
    let busy := ask .acceptShape (req 10 1 5 []) { s with slots := Vector.replicate 4 (some heldForStream) }
    freeSlot s = some 0 ∧ (held.station 5).run.deferrals = [0] ∧ (held.station 5).config.shape = ⟨17, 0, 0⟩ ∧
      held.center0.answers = [] ∧ busy.center0.answers.map (·.result) = [.busy] ∧ (busy.station 5).run.state = .shapeHeld := by
  decide +kernel

/-- A whole configuration in bytes, in range and out of it, and one that changes only what may change while enabled. -/
theorem test_witness_write_station :
    let old := (base.station 5).config
    let bytes := (stationConfigBytes { old with silence := 60 }).drop 1
    bytes.length = 32 ∧ stationConfigOf true (bytes.take 32) = some { old with silence := 60 } ∧
      stationConfigOf true (((stationConfigBytes { old with silence := 61 }).drop 1).take 32) = none ∧
      stationConfigOf true (((stationConfigBytes { old with code := 65534 }).drop 1).take 32) = some { old with code := 65534 } ∧
      (base.station 5).run.state ≠ .disabled ∧ (base.station 6).run.state = .disabled := by decide +kernel

theorem test_witness_exchange :
    let bytes := stationConfigBytes (stationIn .admitted).config
    bytes.length = 33 ∧ flagAt (bytes.take 33) 0 = some true ∧ stationConfigOf true ((bytes.take 33).drop 1) = some (stationIn .admitted).config ∧
      stationConfigOf true (((stationConfigBytes { StationConfig.reset with enable := true }).take 33).drop 1) =
        some { StationConfig.reset with enable := true } ∧
      flagAt ((stationConfigBytes .reset).take 33) 0 = some false ∧ flagAt [2] 0 = none ∧
      stationConfigOf true (((stationConfigBytes { StationConfig.reset with acquire := 33 }).take 33).drop 1) = none ∧
      stationConfigOf true (((stationConfigBytes { StationConfig.reset with acquire := 32 }).take 33).drop 1) =
        some { StationConfig.reset with enable := true, acquire := 32 } ∧
      codeLookup base.codeMap 301 = some 5 ∧ (5 : StationNo) ≠ 6 := by decide +kernel

theorem test_witness_clear_conditions :
    byteAt [1, 31] 0 = 1 ∧ byteAt [1, 31] 1 < 32 ∧ 32 ≤ byteAt [1, 32] 1 ∧ byteAt [2, 32] 0 = 2 ∧ byteAt [2, 32] 1 = 32 ∧
      byteAt [2, 0] 1 = 0 ∧ byteAt [2, 33] 1 ≠ 0 ∧ byteAt [2, 33] 1 ≠ 32 ∧ byteAt [3, 0] 0 ≠ 1 ∧ byteAt [3, 0] 0 ≠ 2 ∧
      1024 ≤ (req 12 0 1024 [1, 0]).target ∧ 4 ≤ (req 12 0 4 [2, 0]).target := by decide

/-- Latches CLEAR and SET, a condition not enabled, causes that hold and do not; counters at 65,535, at and off a threshold. -/
theorem test_witness_latches_and_counters :
    let silent := baseIn .silent
    let set := base.setRun 5 { (base.station 5).run with latches := (base.station 5).run.latches.put .late ⟨true, some 3⟩ }
    let off := base.setConfig 5 { (base.station 5).config with enables := ⟨false, false, false, false, false⟩ }
    let full := base.setRun 5 { (base.station 5).run with counters := ⟨65535, 65534, 0⟩ }
    (off.station 5).config.enables.get .late = false ∧ ((set.station 5).run.latches.get .late).set = true ∧
      (base.station 5).config.enables.get .late = true ∧ ((base.station 5).run.latches.get .late).set = false ∧
      (silent.station 5).run.state = .silent ∧ (base.station 5).run.state ≠ .silent ∧
      65535 ≤ (full.station 5).run.counters.get .late ∧ (full.station 5).run.counters.get .missing < 65535 ∧
      (full.station 5).config.thresholds.get .missing ≠ 65535 ∧
      ((full.setConfig 5 { (full.station 5).config with thresholds := ⟨0, 65535, 0⟩ }).station 5).config.thresholds.get .missing =
        (full.station 5).run.counters.get .missing + 1 ∧
      ((set.station 5).run.latches.get .late).pending = some 3 ∧ (set.station 5).config.sens.get .late = .edge ∧
      ((set.setConfig 5 { (set.station 5).config with sens := ⟨.level, .edge, .edge, .edge, .edge⟩ }).station 5).config.sens.get .late =
        .level ∧ ((base.station 5).run.latches.get .late).pending ≠ some 3 := by decide +kernel

/-- An UNKNOWN_CODE notice that the latch of its line link holds as pending, one that it does not, and another kind. -/
theorem test_witness_departing_unknown_code :
    let s := base.setLine 2 { base.line 2 with latchSet := true, latchPending := some 4, latchCode := some 302 }
    let cleared := departNotice ⟨4, gridZero, .unknownCode 2 302⟩ s
    (s.line 2).latchPending = some 4 ∧ (s.line 2).latchPending ≠ some 5 ∧ (cleared.line 2).latchSet = false ∧
      (cleared.line 2).latchCode = none ∧ (∀ n c g o, NoticeBody.timeStep 0 ≠ .condition n c g o) ∧
      ∀ l code, NoticeBody.timeStep 0 ≠ .unknownCode l code := by
  refine ⟨by decide +kernel, by decide +kernel, by decide +kernel, by decide +kernel, fun _ _ _ _ h => (nomatch h),
    fun _ _ h => (nomatch h)⟩

/-- An answer queue with room and one without. -/
theorem test_witness_answer_queues :
    (base.center .c1).answers.length < 8 ∧
      8 ≤ ({ base with center1 := { CenterLink.reset with answers := List.replicate 8 ⟨1, 2, 3, 4, .ok, []⟩ } : State }.center
        .c1).answers.length := by decide +kernel

theorem test_witness_notice_room :
    base.notices.queue.length < 256 ∧
      256 ≤ { base with notices := ⟨List.replicate 256 ⟨0, gridZero, .timeStep 0⟩, false, 256⟩ : State }.notices.queue.length ∧
      snapSubject 1 1023 = some (.station 1023) ∧ snapSubject 1 1024 = none ∧ snapSubject 3 7 = some (.stream 7) ∧
      snapSubject 3 8 = none ∧ snapSubject 4 65535 = some .timebase ∧ snapSubject 2 0 = none := by decide +kernel

/-- The boundaries of READ_PLAN, an instant for READ_TIMELINE, the last link of READ_PORT. -/
theorem test_witness_reads :
    let c := (base.stream 0).config
    byteAt [0, 0, 0] 2 = 0 ∧ 64 < byteAt [0, 0, 65] 2 ∧ 1 ≤ byteAt [0, 1, 1] 2 ∧ byteAt [0, 1, 64] 2 ≤ 64 ∧
      c.planLength < numAt16 [0, 1, 1] 0 + 1 ∧ numAt16 [0, 0, 1] 0 + 1 ≤ c.planLength ∧
      numAt32 [0, 0, 3, 0xE8, 0x3B, 0x9A, 0xC9, 0xFF] 4 < 1000000000 ∧ 1000000000 ≤ numAt32 [0, 0, 3, 0xE8, 0x3B, 0x9A, 0xCA, 0] 4 ∧
      recordAt (baseWith openWindow) ⟨1000, 100000000⟩ = some (recordWith openWindow) ∧ (3 : LineId).val = (req 22 0 3 []).target ∧
      (req 22 0 5 []).target = 4 + centerCode .c1 := by decide +kernel

/-- Configurations in range and out of it; a running stream, a stopped one with a set queued and without. -/
theorem test_witness_configuration_writes :
    let queued := base.setStream 1 { Stream.reset with run := { StreamRun.reset with queue := [setOf 0 1] } }
    globalsOf (globalsBytes .reset) = some .reset ∧ globalsOf (globalsBytes { Globals.reset with futureTolerance := 1001 }) = none ∧
      globalsOf (globalsBytes { Globals.reset with mask0 := false, mask1 := false }) = none ∧
      timebaseConfigOf [1, 0, 0, 10] = some (.b, false, 10) ∧ timebaseConfigOf [1, 0, 0, 9] = none ∧
      streamConfigOf (streamConfigBytes { StreamConfig.reset with planBase := 4095 }) =
        some { StreamConfig.reset with planBase := 4095 } ∧
      streamConfigOf (streamConfigBytes { StreamConfig.reset with planBase := 4095, planLength := 2 }) = none ∧
      (globalsBytes .reset).length = 9 ∧ globalsOf [0, 0, 0x03, 0xE8, 1, 255, 255, 0, 2] =
        some ⟨0, 1000, .c1, 65535, .c0, false, true⟩ ∧ timebaseConfigOf [0, 1, 0x0E, 0x10] = some (.a, true, 3600) ∧
      timebaseConfigOf [2, 1, 0x0E, 0x10] = none ∧ (streamConfigBytes .reset).length = 19 ∧
      (base.stream 0).run.state ≠ .stopped ∧ (queued.stream 1).run.state = .stopped ∧ (queued.stream 1).run.queue ≠ [] ∧
      (queued.stream 1).config.link ≠ .c1 ∧ (base.stream 1).run.queue = [] := by decide +kernel

/-- WRITE_PLAN: out of bounds, an entry that fails, a segment of a running stream, and one of none. -/
theorem test_witness_write_plan :
    let free := base.setStream 1 { Stream.reset with config := { StreamConfig.reset with planBase := 1 } }
    planEntriesOf [0, 0, 1, 3, 255, 0, 31] 3 1 = some [⟨1023, .phasor 31⟩] ∧ planEntriesOf [0, 0, 1, 3, 255, 0, 32] 3 1 = none ∧
      planEntriesOf [0, 0, 1, 4, 0, 1, 0] 3 1 = none ∧ planEntriesOf [0, 0, 1, 0, 7, 5, 9] 3 1 = some [⟨0, .unused⟩] ∧
      planEntriesOf [0, 0, 1, 0, 7, 3, 7] 3 1 = some [⟨7, .analog 7⟩] ∧ planEntriesOf [0, 0, 1, 0, 7, 3, 8] 3 1 = none ∧ (free.stream 1).config.planLength < 1 + 1 ∧
      0 + 1 ≤ (free.stream 1).config.planLength ∧
      (∃ j, (base.stream j).run.state ≠ .stopped ∧ (base.stream j).config.planBase < 0 + 0 + 1 ∧
        0 + 0 < (base.stream j).config.planBase + (base.stream j).config.planLength) ∧
      ¬(∃ j, (free.stream j).run.state ≠ .stopped ∧ (free.stream j).config.planBase < 1 + 0 + 1 ∧
        1 + 0 < (free.stream j).config.planBase + (free.stream j).config.planLength) := by decide +kernel

/-- Streams in each state, with and without a waiting window, TIME_KNOWN and not, slots free and taken. -/
theorem test_witness_streams :
    let draining := base.setStream 0 { runningStream with run := { runningStream.run with state := .draining } }
    let busy : State := { base with slots := Vector.replicate 4 (some heldForStream) }
    (base.stream 1).run.state = .stopped ∧ State.reset.timebase.timeKnown = false ∧ base.timebase.timeKnown = true ∧
      base.timeline = [] ∧ (base.stream 0).run.state = .running ∧ (draining.stream 0).run.state = .draining ∧
      hasWaiting (baseWith openWindow) 0 = true ∧ hasWaiting base 0 = false ∧ (base.stream 0).run.pendingStop = none ∧
      freeSlot base = some 0 ∧ freeSlot busy = none ∧ busy.slot 3 = some heldForStream ∧ heldForStream.op = .stream 0 ∧
      stopMode (req 16 0 0 [0]) = some 0 ∧ stopMode (req 16 0 0 [1]) = some 1 ∧ stopMode (req 16 0 0 [2]) = some 2 := by
  decide +kernel

/-- START_STREAM with a record of its rate later than its floor: the window opens. -/
theorem test_start_opens_in_a_record :
    let s := ask .startStream (req 15 0 1 []) { baseWith openWindow with timebase := { base.timebase with localTime := ⟨1000, 0⟩ } }
    (base.stream 1).run.state = .stopped ∧ s.timeline.map (fun r => r.windows[(1 : Fin 8)].state) = [.opened] ∧
      recordAt s ⟨1000, 200000000⟩ = none := by decide +kernel

/-- CUT with the WAIT flag and no free slot changes nothing but the answer. -/
theorem test_cut_waits_for_a_slot :
    let s := ask .stopStreamCut (req 16 1 0 [1]) { baseWith openWindow with slots := Vector.replicate 4 (some heldForStream) }
    s.center0.answers.map (·.result) = [.busy] ∧ s.timeline = [recordWith openWindow] := by decide +kernel

/-- FLUSH where every record has a waiting window and no STOPPED stream has one. -/
theorem test_witness_flush :
    (∀ q ∈ (baseWith openWindow).timeline, q.waiting = true) ∧
      (∀ k, ((baseWith openWindow).stream k).run.state = .stopped → hasWaiting (baseWith openWindow) k = false) := by
  decide +kernel

/-- Stopping a stream whose stop is pending in a held slot. -/
theorem test_witness_pending_stop :
    let s := (base.setSlot 3 (some heldForStream)).setStreamRun 0 { runningStream.run with pendingStop := some 3 }
    (s.stream 0).run.pendingStop = some 3 ∧ s.slot 3 = some heldForStream := by decide +kernel

theorem test_witness_schedule_points :
    let full : State := { base with timeline := List.replicate 512 { recordWith openWindow with instant := ⟨1001, 0⟩ } }
    (base.stream 0).run.state = .running ∧ nextInstant .r10 ⟨1000, 0⟩ = some ⟨1000, 100000000⟩ ∧
      (base.stream 0).config.rate = .r10 ∧ (base.stream 0).run.mark = ⟨1000, 0⟩ ∧
      recordAt (baseWith openWindow) ⟨1000, 100000000⟩ = some (recordWith openWindow) ∧ recordAt base ⟨1000, 100000000⟩ = none ∧
      base.timeline.length < 512 ∧ 512 ≤ full.timeline.length ∧ recordAt full ⟨1000, 100000000⟩ = none ∧
      earlier ⟨1000, 100000000⟩ ⟨1001, 0⟩ = true := by decide +kernel

/-- A schedule point later than the oldest record of a full Timeline, whose forced close leaves it wanted; and one that the
cascade of the forced close passes. -/
theorem test_witness_forced_schedule_points :
    let next : GridTime := ⟨1000, 200000000⟩
    let mark := fun s : State => s.setStreamRun 0 { runningStream.run with mark := ⟨1000, 100000000⟩ }
    let full := mark (fullWith openWindow openWindow)
    let cascade := mark (fullWith openWindow { openWindow with state := .ready .deadline })
    nextInstant .r10 (full.stream 0).run.mark = some next ∧ recordAt full next = none ∧ 512 ≤ full.timeline.length ∧
      (recordWith openWindow).instant = ⟨1000, 100000000⟩ ∧ earlier ⟨1000, 100000000⟩ next = true ∧
      anyWants (forceClose ⟨1000, 100000000⟩ full) next = true ∧
      anyWants (forceClose ⟨1000, 100000000⟩ cascade) next = false := by decide +kernel

/-- A forced close takes its record out, counts once, and cascades. -/
theorem test_forced_close :
    let s := forceClose ⟨1000, 100000000⟩ (two openWindow { openWindow with state := .ready .deadline })
    s.timeline = [] ∧ s.forcedCloses = 1 ∧ (s.stream 0).run.forced = 1 ∧
      (s.stream 0).run.queue.map (·.cause) = [.forced, .deadline] := by decide +kernel

theorem test_witness_deadlines :
    let t : GridTime := ⟨1000, 100000000⟩
    let closed := { openWindow with state := .closed .cut }
    recordAt (baseWith openWindow) t = some (recordWith openWindow) ∧
      (recordWith openWindow).windows[(0 : Fin 8)].deadline = some ⟨1000, 200000000⟩ ∧
      (recordWith openWindow).windows[(0 : Fin 8)].state = .opened ∧
      recordAt (baseWith closed) t = some (recordWith closed) ∧ (recordWith closed).windows[(0 : Fin 8)].state ≠ .opened := by
  decide +kernel

/-- A settling stream: an OPEN window first, a READY one of either cause first, and none that waits. -/
theorem test_witness_settling :
    let first := fun s : State => s.timeline.find? (fun q => q.windows[(0 : Fin 8)].waiting)
    let ready := fun why => { openWindow with state := .ready why }
    first (two openWindow (ready .complete)) = some (recordWith openWindow) ∧
      first (two (ready .complete) openWindow) = some (recordWith (ready .complete)) ∧
      first (two (ready .deadline) openWindow) = some (recordWith (ready .deadline)) ∧ first base = none ∧
      (settle 0 (two (ready .complete) openWindow)).timeline.map (·.instant) = [⟨1000, 200000000⟩] ∧
      (settle 0 (two (ready .deadline) (ready .complete))).timeline = [] := by decide +kernel

theorem test_witness_settling_store (w v : Window) : StoreOk (two w v) := by
  refine ⟨List.pairwise_pair.mpr rfl, fun r h => ?_, rfl⟩
  have empty : r.arrivals = [] := by
    rcases List.mem_cons.mp h with rfl | h
    · rfl
    · obtain rfl := List.mem_singleton.mp h; rfl
  rw [empty]
  exact .nil

/-- Records with and without a waiting window; a DRAINING stream with and without one. -/
theorem test_witness_retirement :
    let draining := fun s : State => s.setStreamRun 0 { runningStream.run with state := .draining }
    (recordWith openWindow).windows[(0 : Fin 8)].waiting = true ∧
      (∀ k : StreamNo, (recordWith { openWindow with state := .closed .cut }).windows[k].waiting = false) ∧
      ((draining base).stream 0).run.state = .draining ∧ hasWaiting (draining base) 0 = false ∧
      hasWaiting (draining (baseWith openWindow)) 0 = true ∧ (base.stream 0).run.state ≠ .draining := by decide +kernel

/-- An awaited station that opens the window, one that opens it past its deadline, and a window with nobody awaited. -/
theorem test_witness_opening :
    let r : Machine.Record := ⟨⟨1000, 100000000⟩, .schedule, [], Vector.replicate 8 .notUsed⟩
    let late := base.runClock 50000000
    (openedWindow base 0 r).awaited = [5] ∧ (openedWindow base 0 r).state = .opened ∧
      (openedWindow late 0 r).state = .ready .deadline ∧ (openedWindow base 1 r).awaited = [5] ∧
      (openedWindow (baseIn .silent) 0 r).awaited = [] ∧ (openedWindow (baseIn .silent) 0 r).state = .ready .complete ∧
      (base.stream 0).config.closeOnComplete = true := by decide +kernel

theorem test_witness_waits :
    let c := { StreamConfig.reset with adaptive := true }
    StreamConfig.reset.adaptive = false ∧ c.adaptive = true ∧ c.floorWait ≤ c.ceilingWait ∧
      (∀ n ∈ [(5 : StationNo)], max (base.station n).run.curMax (base.station n).run.prevMax ≤ 0) ∧
      (∃ n ∈ [(5 : StationNo)], max (base.station n).run.curMax (base.station n).run.prevMax = 0) := by decide +kernel

/-- Each case of a cell: no selector, a value carried and not, an absent station, a missing and a not-due report. -/
theorem test_witness_cells :
    let e : PlanEntry := ⟨5, .phasor 1⟩
    PlanEntry.empty.selector = .unused ∧ e.selector ≠ .unused ∧ arrivalOf [(5, stored)] 5 = some stored ∧
      stored.phasors[(1 : Nat)]? = none ∧ stored.phasors[(0 : Nat)]? = some (1, 2) ∧ arrivalOf [] 5 = none ∧
      (base.station 6).run.state ≠ .admitted ∧ (base.station 6).run.state ≠ .silent ∧ (base.station 5).run.state = .admitted ∧
      isDue .r50 .r120 ⟨1000, 8333333⟩ = false ∧ isDue .r50 .r10 ⟨1000, 100000000⟩ = true := by decide +kernel

theorem test_witness_overrun :
    let full : State := base.setStream 0 { runningStream with run := { runningStream.run with
      queue := setOf 0 1 :: setOf 1 1 :: List.replicate 14 (setOf 2 1) } }
    (base.stream 0).run.queue.length < 16 ∧ (full.stream 0).run.queue.length = 16 ∧
      txStream (full.center .c0).tx ≠ some 0 ∧ txStream (full.center .c1).tx ≠ some 0 ∧
      txStream ({ full with center1 := { CenterLink.reset with tx := some (.fragment 0 2 0 []) } : State }.center .c1).tx = some 0 := by
  decide +kernel

/-- Markers one nanosecond outside the window at both ends, at its ends, and on an ABSENT input. -/
theorem test_witness_markers :
    let x := inputOf base .a
    x.qual ≠ .absent ∧ x.lastMarker = some 1000000000 ∧
      2000 + (base.elapsed + 849997999) < 1000000000 * (x.missed + 1) + 1000000000 ∧
      1000000000 * (x.missed + 1) + 1000000000 ≤ 2000 + (base.elapsed + 849998000) ∧
      base.elapsed + 850002000 ≤ 2000 + (1000000000 * (x.missed + 1) + 1000000000) ∧
      2000 + (1000000000 * (x.missed + 1) + 1000000000) < base.elapsed + 850002001 ∧ (inputOf base .b).qual = .absent := by
  decide +kernel

theorem test_witness_absent_markers :
    let told := { base with timebase := { base.timebase with inputB := { RefInput.reset with message := some ⟨7, true⟩ } } }
    (inputOf told .b).message = some ⟨7, true⟩ ∧ (∀ m, (inputOf base .b).message = some m → m.locked = false) :=
  ⟨rfl, fun _ h => nomatch h⟩

/-- Good seconds: of the locked input; of the preferred input beside LOCKED on the other, with revert set and not; below the
eighth and at it, in FREE and in HOLDOVER. -/
theorem test_witness_good_seconds :
    let x := fun (q : InputQual) (n : Nat) => { qualifiedInput with qual := q, goodSeconds := n, message := some ⟨1000, true⟩ }
    let s := fun (mode : TimebaseMode) (a b : RefInput) =>
      { base with timebase := { base.timebase with mode := mode, inputA := a, inputB := b } }
    let locked := s (.locked .a) (x .qualified 8) qualifiedInput
    let reverts := s (.locked .b) (x .qualifying 7) qualifiedInput
    let stays : State := { reverts with timebase := { reverts.timebase with revert := false } }
    1000000000 * ((inputOf locked .a).missed + 1) + 1000000000 ≤ 2000 + (locked.elapsed + 850000000) ∧
      locked.elapsed + 850000000 ≤ 2000 + (1000000000 * ((inputOf locked .a).missed + 1) + 1000000000) ∧
      (inputOf locked .a).lastMarker = some 1000000000 ∧ (inputOf locked .a).lastSecond = some 999 ∧
      (inputOf locked .a).message = some ⟨999 + 1, true⟩ ∧ locked.timebase.mode = .locked .a ∧
      reverts.timebase.mode = .locked .b ∧ reverts.timebase.preferred = .a ∧ reverts.timebase.revert = true ∧
      7 ≤ (inputOf reverts .a).goodSeconds ∧ stays.timebase.revert = false ∧ (6 : Nat) < 7 ∧
      (inputOf (s .free (x .qualifying 6) .reset) .a).goodSeconds = 6 ∧
      (inputOf (s .holdover (x .qualifying 7) .reset) .a).qual = .qualifying ∧
      (after (exec (.marker 850000000 .a) locked)).localTime = ⟨1000, 0⟩ ∧
      (after (exec (.marker 850000000 .a) reverts)).timebase.mode = .locked .a ∧
      (after (exec (.marker 850000000 .a) stays)).timebase.mode = .locked .b ∧
      (inputOf (after (exec (.marker 850000000 .a) (s .free (x .qualifying 6) .reset))) .a).goodSeconds = 7 := by decide +kernel

theorem test_witness_bad_second (g : TimeMessage) (l : Nat) :
    let s : State := { base with timebase := { base.timebase with inputB := { qualifiedInput with message := none } } }
    (inputOf s .b).message = some g → (inputOf s .b).lastSecond = some l →
      ¬(g.locked = true ∧ l < 4294967295 ∧ g.second = l + 1) := fun h => nomatch h

/-- Bad seconds of the locked input, of another QUALIFIED one and of a QUALIFYING one. -/
theorem test_bad_seconds_by_state :
    let s := fun b : RefInput => { base with timebase := { base.timebase with inputB := b } }
    (after (exec (.marker 850000000 .a) (s .reset))).timebase.mode = .holdover ∧
      (after (exec (.marker 850000000 .a) (s qualifiedInput))).timebase.mode = .locked .b ∧
      (after (exec (.marker 850000000 .b) (s qualifiedInput))).timebase.inputB.qual = .qualifying ∧
      (after (exec (.marker 850000000 .b) (s { qualifiedInput with qual := .qualifying }))).notices.queue = [] := by decide +kernel

/-- A first setting of 1 ms and 1 ns and one of 1 ms, and a later setting, forward and backward. -/
theorem test_witness_settings :
    let s := fun (ns : Nat) (first : Bool) =>
      { base with timebase := { base.timebase with localTime := ⟨1000, ns⟩, firstPending := first } }
    1000000 < (diffNs ⟨1001, 0⟩ (s 998999999 true).localTime).natAbs ∧ (diffNs ⟨1001, 0⟩ (s 999000000 true).localTime).natAbs ≤ 1000000 ∧
      (s 999000000 true).timebase.firstPending = true ∧ (s 5 false).timebase.firstPending = false ∧
      earlier (s 999000000 true).localTime ⟨1001, 0⟩ = true ∧ earlier (s 5 false).localTime ⟨1000, 0⟩ = false := by decide +kernel

/-- A forward setting reaches a deadline and the schedule points after it, in order. -/
theorem test_forward_setting_reaches :
    let s := setLocalTime 1001 { two openWindow openWindow with timebase := { base.timebase with localTime := ⟨1000, 999000000⟩ } }
    (s.stream 0).run.mark = ⟨1001, 0⟩ ∧ (s.stream 0).run.built = 9 ∧ (s.stream 0).run.floor = ⟨1000, 900000000⟩ ∧
      s.timeline.map (·.instant) = [⟨1001, 0⟩] := by decide +kernel

/-- The eighth good second in FREE and in HOLDOVER, with every stream STOPPED and the local time a second away. -/
theorem test_witness_qualification :
    let x : RefInput := { qualifiedInput with qual := .qualifying, goodSeconds := 7, message := some ⟨1000, true⟩ }
    let s : State := { State.reset with elapsed := 1150000000, timebase := { Timebase.reset with inputA := x } }
    (inputOf s .a).qual = .qualifying ∧ (inputOf s .a).goodSeconds = 7 ∧ (inputOf s .a).lastMarker = some 1000000000 ∧
      1000000000 * (x.missed + 1) + 1000000000 ≤ 2000 + (s.elapsed + 850000000) ∧
      s.elapsed + 850000000 ≤ 2000 + (1000000000 * (x.missed + 1) + 1000000000) ∧
      (inputOf s .a).lastSecond = some 999 ∧ (inputOf s .a).message = some ⟨999 + 1, true⟩ ∧ s.timebase.mode = .free ∧
      { s with timebase := { s.timebase with mode := .holdover } : State }.timebase.mode = .holdover ∧
      (∀ k, (s.stream k).run.state = .stopped) ∧
      1000000 < (diffNs ⟨999 + 1, 0⟩ (s.runClock 850000000).localTime).natAbs ∧ s.notices.queue.length < 254 := by decide +kernel

/-- A start byte after exactly ten idle byte times, and one nanosecond less; a message of fewer than seven bytes, and of seven
with a valid last byte, and with one that is invalid by each check. -/
theorem test_witness_messages :
    let x := fun (l : List Byte) (f : Bool) => { RefInput.reset with assembly := some ⟨l, f⟩ }
    110000000000 ≤ 115200 * (base.elapsed + 0 - (base.setQuiet .a 1149045138).quiet .a) ∧
      ¬110000000000 ≤ 115200 * (base.elapsed + 0 - (base.setQuiet .a 1149045139).quiet .a) ∧
      (inputOf base .a).assembly = none ∧ (x [0xA5] false).assembly ≠ none ∧ [0xA5, 5, 0, 0, 3, (0xE8 : Byte)].length < 7 ∧
      ((x [0xA5, 5, 0, 0, 3, 0xE8, 0] false).takeByte 0x10 false).message = some ⟨1000, true⟩ ∧
      ((x [0xA5, 5, 0, 0, 3, 0xE8, 1] false).takeByte 0x0F false).message = some ⟨1000, false⟩ ∧
      ((x [0xA5, 4, 0, 0, 3, 0xE8, 0] false).takeByte 0x11 false).messageErrors = 1 ∧
      ((x [0xA5, 5, 0, 0, 3, 0xE8, 2] false).takeByte 0x0E false).messageErrors = 1 ∧
      ((x [0xA5, 5, 0, 0, 3, 0xE8, 0] false).takeByte 0x11 false).messageErrors = 1 ∧
      ((x [0xA5, 5, 0, 0, 3, 0xE8, 0] true).takeByte 0x10 false).messageErrors = 1 ∧
      ((x [0xA5, 5, 0, 0, 3, 0xE8, 0] false).takeByte 0x10 true).messageErrors = 1 := by decide +kernel

/-- The second and the third missed window, of the locked input and of the other; the other input QUALIFIED and not. -/
theorem test_witness_window_ends :
    let miss := fun n : Nat => { base with timebase := { base.timebase with inputB := { qualifiedInput with missed := n } } }
    (inputOf (miss 1) .b).missed < 2 ∧ (inputOf (miss 2) .b).missed = 2 ∧ (miss 2).timebase.mode ≠ .locked .b ∧
      (inputOf (miss 2) .b).qual ≠ .absent ∧ (inputOf (miss 2) .b).lastMarker = some 1000000000 ∧
      base.timebase.mode = .locked .a ∧ (inputOf (miss 1) .b).qual = .qualified ∧ (inputOf base .b).qual ≠ .qualified := by
  decide +kernel

/-- The third missed window of the locked input. -/
theorem test_third_missed_window_of_the_locked_input :
    let s : State := { base with timebase := { base.timebase with inputA := { qualifiedInput with missed := 2 } } }
    (inputOf s .a).missed = 2 ∧ (inputOf s .a).qual = .qualified ∧ (inputOf s .a).lastMarker = some 1000000000 ∧
      (after (exec (.windowEnd .a) s)).timebase.mode = .holdover := by decide +kernel

theorem test_witness_holdover_and_limits :
    let s : State := { base with timebase := { base.timebase with mode := .holdover, holdoverTimer := some 9 } }
    s.timebase.holdoverTimer = some 9 ∧ s.timebase.mode = .holdover ∧
      (base.setSlot 3 (some heldForStream)).slot 3 = some heldForStream ∧ heldForStream.op = .stream 0 ∧
      (base.setSlot 0 (some heldForStation)).slot 0 = some heldForStation ∧ heldForStation.op = .station 5 := by decide +kernel

/-- A DOWN link, a busy one, and an idle one with each source as its first. -/
theorem test_witness_egress :
    let up : CenterLink := { CenterLink.reset with up := true }
    let idle : State := { base with center0 := up }
    let answered : State := { base with center0 := { up with answers := [⟨1, 2, 3, 4, .ok, []⟩] } }
    let withSet := idle.setStream 0 { runningStream with run := { runningStream.run with queue := [setOf 0 1] } }
    (base.center .c0).up = false ∧ ((sending 1).center .c0).tx ≠ none ∧ (idle.center .c0).up = true ∧ (idle.center .c0).tx = none ∧
      (answered.center .c0).answers = ⟨1, 2, 3, 4, .ok, []⟩ :: [] ∧ (idle.center .c0).answers = [] ∧
      (withSet.stream 0).config.link = .c0 ∧ (withSet.stream 0).run.queue = setOf 0 1 :: [] ∧
      (∀ j, (withSet.stream j).config.link = .c0 → (withSet.stream j).run.queue ≠ [] →
        (withSet.stream 0).config.priority < (withSet.stream j).config.priority ∨
          (withSet.stream 0).config.priority = (withSet.stream j).config.priority ∧ 0 ≤ j) ∧
      (∀ k, (idle.stream k).config.link = .c0 → (idle.stream k).run.queue = []) ∧ idle.globals.noticeLink = .c0 ∧
      idle.notices.queue = [] ∧ (pushNotice (.timeStep 0) idle).notices.queue ≠ [] ∧ idle.globals.throughLink ≠ .c0 ∧
      { idle.globals with throughLink := .c0 : Globals }.throughLink = .c0 ∧
      { idle with passThrough := [[0]] : State }.passThrough = [0] :: [] := by decide +kernel

theorem test_witness_transmissions :
    ({ base with center0 := { CenterLink.reset with up := true, tx := some (.notices []) } : State }.center .c0).tx =
        some (.notices []) ∧
      ((sending 121).center .c0).tx = some (.fragment 0 0 0 []) ∧ 120 * (0 + 1) < (setOf 4 121).cells.length ∧
      (setOf 4 120).cells.length ≤ 120 * (0 + 1) ∧ ((sending 120).stream 0).run.queue = setOf 4 120 :: [setOf 5 1] := by
  decide +kernel

/-- The invariants hold together in `baseWith openWindow`, whatever waits in front of it, and a command there completes. -/
theorem test_witness_step_completes (s : State) (t : GridTime) (k : StreamNo) :
    ∃ u, step { s with pending := [.deadlineExpiry t k] } = .next u := ⟨_, rfl⟩

theorem test_witness_timebase : TimebaseOk (baseWith openWindow).timebase := by
  refine ⟨fun i => ?_, fun i => ?_, by decide +kernel, by decide +kernel, ?_, fun i => ?_, fun i => ?_, fun i => ?_⟩
  · cases i <;> decide +kernel
  · intro h
    cases i
    · exact ⟨.a, rfl⟩
    · exact absurd h (by decide +kernel)
  · intro h
    exact absurd h (by decide +kernel)
  · cases i <;> decide +kernel
  · cases i <;> decide +kernel
  · cases i <;> decide +kernel

theorem test_witness_capacities : WithinCapacity (baseWith openWindow) := by
  refine ⟨by decide +kernel, by decide +kernel, by decide +kernel, by decide +kernel, by decide +kernel, fun c => ?_,
    by decide +kernel⟩
  cases c <;> decide +kernel

theorem test_witness_store : StoreOk (baseWith openWindow) := by
  refine ⟨List.pairwise_singleton _ _, fun r h => ?_, by decide +kernel⟩
  obtain rfl := List.mem_singleton.mp h
  exact .nil

theorem station_base (n : StationNo) : base.station n = if 5 = n then stationIn .admitted else Station.reset := by
  have h : base.stations = (Vector.replicate 1024 Station.reset).set 5 (stationIn .admitted) := rfl
  rw [State.station, h]
  simp only [Fin.getElem_fin, Vector.getElem_set, Vector.getElem_replicate]
  congr 1
  exact propext ⟨fun h => Fin.ext h, fun h => congrArg Fin.val h⟩

/-- No two enabled descriptors of `base` have the same code. -/
theorem test_witness_distinct_codes (a b : StationNo) (ha : base.stations[a].config.enable = true)
    (hb : base.stations[b].config.enable = true) : a = b := by
  have only : ∀ n : StationNo, base.stations[n].config.enable = true → 5 = n := fun n h => by
    by_contra other
    have := station_base n
    rw [if_neg other] at this
    exact absurd (this ▸ h : Station.reset.config.enable = true) (by decide)
  exact (only a ha).symm.trans (only b hb)

theorem test_witness_code_map : CodeMapOk base := by
  have map : base.codeMap = [(301, 5)] := rfl
  refine ⟨fun n => ?_, by rw [map]; exact List.pairwise_singleton _ _, fun code n => ?_⟩
  · rw [station_base]
    split <;> decide
  · have key : codeLookup [(301, 5)] code = some n ↔ 301 = code ∧ 5 = n := by
      by_cases same : 301 = code <;> simp [codeLookup, same]
    rw [station_base, map, key]
    split
    case isTrue same => exact ⟨fun h => ⟨by decide, h.1⟩, fun h => ⟨h.2, same⟩⟩
    case isFalse other => exact ⟨fun h => absurd h.2 other, fun h => absurd rfl h.1⟩

end Sys2Proof.Tests
end

