-- ==== Sys2Proof/Proofs/EmptyTimeline.lean ====
section
/-! PROOFS. Family 04, the Timeline and the Report Store: R84 at power-on, at the reset pin and at RESET_COLD. The resets empty
the Timeline and the Report Store; the answer and the arbiters' choice that follow leave both alone. -/

namespace Sys2Proof.Machine

/-! ## What leaves the Timeline and the Report Store alone -/

/-- `t` has the Timeline, the free report slots and the store counts of `s`. -/
structure SameStore (s t : State) : Prop where
  timeline      : t.timeline = s.timeline
  freeSlots     : t.freeSlots = s.freeSlots
  forcedCloses  : t.forcedCloses = s.forcedCloses
  storeDiscards : t.storeDiscards = s.storeDiscards

theorem SameStore.refl (s : State) : SameStore s s := ⟨rfl, rfl, rfl, rfl⟩

theorem SameStore.trans {s t u : State} (h : SameStore s t) (g : SameStore t u) : SameStore s u :=
  ⟨g.timeline.trans h.timeline, g.freeSlots.trans h.freeSlots, g.forcedCloses.trans h.forcedCloses,
    g.storeDiscards.trans h.storeDiscards⟩

/-- A fold of steps that leave the store alone leaves it alone. -/
theorem SameStore.foldl {α : Type} (f : State → α → State) (h : ∀ s a, SameStore s (f s a)) (l : List α) (s : State) :
    SameStore s (l.foldl f s) := by
  induction l generalizing s with
  | nil => exact .refl s
  | cons a l ih => exact (h s a).trans (ih (f s a))

theorem answerRequest_sameStore (r : Request) (x : Result) (p : List Byte) (s : State) :
    SameStore s (answerRequest r x p s) := by
  constructor <;> simp

theorem setTx_sameStore (c : CenterId) (t : Option Transmission) (s : State) : SameStore s (setTx c t s) := by
  constructor <;> simp

theorem departNotice_sameStore (m : Notice) (s : State) : SameStore s (departNotice m s) := by
  constructor <;> simp

theorem beginAnswer_sameStore (c : CenterId) (a : Answer) (rest : List Answer) (s : State) :
    SameStore s (beginAnswer c a rest s) := by
  constructor <;> simp

theorem beginFragment_sameStore (c : CenterId) (k : StreamNo) (a : AlignedSet) (i destination : Nat) (s : State) :
    SameStore s (beginFragment c k a i destination s) := by
  constructor <;> simp

theorem beginNotices_sameStore (c : CenterId) (s : State) : SameStore s (beginNotices c s) := by
  refine SameStore.trans ?_ (setTx_sameStore _ _ _)
  refine SameStore.trans ?_ (SameStore.foldl _ (fun s m => departNotice_sameStore m s) _ _)
  exact ⟨rfl, rfl, rfl, rfl⟩

theorem beginPassThrough_sameStore (c : CenterId) (bytes : List Byte) (rest : List (List Byte)) (s : State) :
    SameStore s (beginPassThrough c bytes rest s) := by
  refine SameStore.trans ?_ (setTx_sameStore _ _ _)
  exact ⟨rfl, rfl, rfl, rfl⟩

theorem chooseLast_sameStore (c : CenterId) (s : State) : SameStore s (chooseLast c s) := by
  unfold chooseLast
  split
  · exact beginNotices_sameStore c s
  · split
    · split
      · exact beginPassThrough_sameStore _ _ _ _
      · exact .refl s
    · exact .refl s

theorem chooseSource_sameStore (c : CenterId) (s : State) : SameStore s (chooseSource c s) := by
  unfold chooseSource
  split
  · exact beginAnswer_sameStore _ _ _ _
  · split
    · split
      · exact beginFragment_sameStore _ _ _ _ _ _
      · exact .refl s
    · exact chooseLast_sameStore c s

theorem choose_sameStore (c : CenterId) (s : State) : SameStore s (choose c s) := by
  unfold choose
  split
  · exact chooseSource_sameStore c s
  · exact .refl s

/-- The choice of the arbiters takes nothing from the Timeline or the Report Store (R171). -/
theorem finish_sameStore (s : State) : SameStore s (finish s) := (choose_sameStore _ _).trans (choose_sameStore _ _)

/-! ## What the resets leave in the Timeline and the Report Store -/

/-- No record, every report slot free, and both store counts 0 (R84). -/
def StoreEmpty (t : State) : Prop :=
  t.timeline = [] ∧ t.freeSlots = 16384 ∧ t.forcedCloses = 0 ∧ t.storeDiscards = 0

theorem StoreEmpty.of_sameStore {s t : State} (h : StoreEmpty s) (same : SameStore s t) : StoreEmpty t := by
  obtain ⟨timeline, free, forced, discards⟩ := h
  exact ⟨same.timeline.trans timeline, same.freeSlots.trans free, same.forcedCloses.trans forced,
    same.storeDiscards.trans discards⟩

theorem coldReset_storeEmpty (s : State) : StoreEmpty (coldReset s) := ⟨rfl, rfl, rfl, rfl⟩

theorem powerOnReset_storeEmpty (s : State) : StoreEmpty (powerOnReset s) := coldReset_storeEmpty s

/-! ## The three commands -/

theorem exec_powerOn (gap : Nat) (s : State) :
    exec (.powerOn gap) s = .next (finish (powerOnReset (s.runClock gap))) := rfl

theorem exec_resetPinAsserted (gap : Nat) (s : State) :
    exec (.resetPinAsserted gap) s = .next (finish (powerOnReset (s.runClock gap))) := rfl

/-- A RESET_COLD request without payload resets and then answers OK (R192). -/
theorem exec_resetCold_of_offers (gap : Nat) {r : Request} {s : State} (carries : requestCarries r 26 0)
    (offered : s.offers r) :
    exec (.resetCold gap r) s = .next (finish (answerRequest r .ok [] (coldReset (s.taken gap)))) := by
  have handled : handleResetCold r (s.taken gap) = answerRequest r .ok [] (coldReset (s.taken gap)) :=
    withPayload_of_carries carries _ _
  calc exec (.resetCold gap r) s = request gap (requestIs 26 r) r handleResetCold s := rfl
    _ = .next (finish (handleResetCold r (s.taken gap))) :=
        request_offered offered (requestIs_of_carries carries) _ _
    _ = .next (finish (answerRequest r .ok [] (coldReset (s.taken gap)))) := by rw [handled]

/-- Settles O4: the resets empty the store, and neither the answer nor the arbiters' choice touches it. -/
theorem timelineIsEmptyAfterPowerOnAndColdReset : Obligations.TimelineIsEmptyAfterPowerOnAndColdReset := by
  intro gap r s
  have poweredOn : StoreEmpty (finish (powerOnReset (s.runClock gap))) :=
    (powerOnReset_storeEmpty _).of_sameStore (finish_sameStore _)
  have answered : StoreEmpty (finish (answerRequest r .ok [] (coldReset (s.taken gap)))) :=
    (coldReset_storeEmpty _).of_sameStore ((answerRequest_sameStore _ _ _ _).trans (finish_sameStore _))
  exact ⟨⟨_, exec_powerOn gap s, poweredOn⟩, ⟨_, exec_resetPinAsserted gap s, poweredOn⟩,
    fun carries offered => ⟨_, exec_resetCold_of_offers gap carries offered, answered⟩⟩

end Sys2Proof.Machine
end

