-- ==== Sys2Proof/Proofs/WindowWait.lean ====
section
/-! PROOFS. Family 05, streams and alignment windows: the wait of a window at its opening (R101, R102). The wait has one equation
for each case of its definition; the largest estimate is the one value that bounds every awaited estimate and is one of them. -/

namespace Sys2Proof.Machine

/-! ## The largest latency estimate of the awaited stations -/

/-- A running maximum stays within a bound exactly when its start and every value it meets do. -/
theorem foldl_max_le_iff {α : Type} (f : α → Nat) (l : List α) (start bound : Nat) :
    l.foldl (fun m x => max m (f x)) start ≤ bound ↔ start ≤ bound ∧ ∀ x ∈ l, f x ≤ bound := by
  induction l generalizing start with
  | nil => simp
  | cons x l ih => rw [List.foldl_cons, ih, max_le_iff, List.forall_mem_cons, and_assoc]

/-- The largest latency estimate of a list of stations, 0 when it is empty (R58, R102). -/
def largestEstimate (s : State) (awaited : List StationNo) : Nat :=
  awaited.foldl (fun m n => max m (s.station n).run.estimate) 0

theorem largestEstimate_le_iff (s : State) (awaited : List StationNo) (bound : Nat) :
    largestEstimate s awaited ≤ bound ↔ ∀ n ∈ awaited, (s.station n).run.estimate ≤ bound :=
  (foldl_max_le_iff _ awaited 0 bound).trans (and_iff_right bound.zero_le)

theorem estimate_le_largestEstimate (s : State) {awaited : List StationNo} {n : StationNo} (mem : n ∈ awaited) :
    (s.station n).run.estimate ≤ largestEstimate s awaited :=
  (largestEstimate_le_iff s awaited _).1 le_rfl n mem

/-- A bound of the awaited estimates that one of them reaches is the largest of them. -/
theorem largestEstimate_eq {s : State} {awaited : List StationNo} {largest : Nat}
    (bound : ∀ n ∈ awaited, (s.station n).run.estimate ≤ largest)
    (reached : ∃ n ∈ awaited, (s.station n).run.estimate = largest) : largestEstimate s awaited = largest := by
  obtain ⟨n, mem, rfl⟩ := reached
  exact le_antisymm ((largestEstimate_le_iff s awaited _).2 bound) (estimate_le_largestEstimate s mem)

/-! ## The wait, case by case -/

/-- Under FIXED the wait is the fixed wait (R101). -/
theorem waitMs_fixed {c : StreamConfig} (fixed : c.adaptive = false) (s : State) (awaited : List StationNo) :
    waitMs s c awaited = c.fixedWait := by
  simp [waitMs, fixed]

/-- Under ADAPTIVE an empty awaited set waits the floor wait (R102). -/
theorem waitMs_adaptive_nil {c : StreamConfig} (adaptive : c.adaptive = true) (s : State) :
    waitMs s c [] = c.floorWait := by
  simp [waitMs, adaptive]

/-- R102's clamp, as the two comparisons that `waitMs` makes. -/
def clampWait (floor ceiling w : Nat) : Nat := if w < floor then floor else if ceiling < w then ceiling else w

/-- With the floor at or below the ceiling the order of the two comparisons does not matter. -/
theorem clampWait_eq {floor ceiling : Nat} (ordered : floor ≤ ceiling) (w : Nat) :
    clampWait floor ceiling w = max floor (min ceiling w) := by
  unfold clampWait
  split
  case isTrue below => omega
  case isFalse reaches =>
    split
    case isTrue above => omega
    case isFalse within => omega

/-- Under ADAPTIVE a nonempty awaited set waits its largest estimate plus the margin, rounded up and clamped (R102). -/
theorem waitMs_adaptive_of_ne_nil {c : StreamConfig} (adaptive : c.adaptive = true) (s : State)
    {awaited : List StationNo} (nonempty : awaited ≠ []) :
    waitMs s c awaited =
      clampWait c.floorWait c.ceilingWait ((999 + (1000 * c.margin + largestEstimate s awaited)) / 1000) := by
  have occupied : awaited.isEmpty = false := List.isEmpty_eq_false_iff.2 nonempty
  rw [waitMs, adaptive, occupied]
  rfl

/-- Settles O44: one clause for each case of the wait. -/
theorem waitIsFixedOrClampedEstimate : Obligations.WaitIsFixedOrClampedEstimate := by
  intro s c awaited largest
  refine ⟨fun fixed => waitMs_fixed fixed s awaited, ?_, fun adaptive ordered bound reached => ?_⟩
  · rintro adaptive rfl
    exact waitMs_adaptive_nil adaptive s
  · have nonempty : awaited ≠ [] := List.ne_nil_of_mem reached.choose_spec.1
    calc waitMs s c awaited
        = clampWait c.floorWait c.ceilingWait ((999 + (1000 * c.margin + largestEstimate s awaited)) / 1000) :=
          waitMs_adaptive_of_ne_nil adaptive s nonempty
      _ = clampWait c.floorWait c.ceilingWait ((999 + (1000 * c.margin + largest)) / 1000) := by
          rw [largestEstimate_eq bound reached]
      _ = max c.floorWait (min c.ceilingWait ((999 + (1000 * c.margin + largest)) / 1000)) :=
          clampWait_eq ordered _

end Sys2Proof.Machine
end

