-- ==== Sys2Proof/Proofs/PlanCells.lean ====
section
/-! PROOFS. Family 06, the Plan Table and aligned sets: the cell of a plan entry (R122, R123). The cases of R122 are equations,
each under the negations of the cases before it; cases 4 and 5 share one, by the due rule. -/

namespace Sys2Proof.Machine

theorem contributes_iff {x : StationState} : contributes x = true ↔ x = .admitted ∨ x = .silent := by
  simp [contributes]

section
variable {s : State} {rate : RateCode} {t : GridTime} {m : List (StationNo × Report)} {e : PlanEntry}

/-! ## The cell, case by case (R122) -/

/-- Case 1: an empty entry. -/
theorem cellOf_unused (empty : e.selector = .unused) : cellOf s rate t m e = ⟨.absentStation, 0, 0⟩ :=
  if_pos empty

/-- Case 2: a report without the selected value gives SHORT, whatever its suspect mark and the station's state and rate. -/
theorem cellOf_short {p : Report} (used : e.selector ≠ .unused) (held : arrivalOf m e.station = some p)
    (lacks : carriedValue p e.selector = none) : cellOf s rate t m e = ⟨.short, 0, 0⟩ := by
  simp [cellOf, used, held, lacks]

/-- Case 2: a report with the selected value gives that value (R123). -/
theorem cellOf_carried {p : Report} {v : Word32 × Word32} (used : e.selector ≠ .unused)
    (held : arrivalOf m e.station = some p) (carries : carriedValue p e.selector = some v) :
    cellOf s rate t m e = ⟨if p.suspect then .suspect else .present, v.1, v.2⟩ := by
  simp [cellOf, used, held, carries]

/-- Case 3: no report, and a station that is neither ADMITTED nor SILENT. -/
theorem cellOf_notContributing (used : e.selector ≠ .unused) (noReport : arrivalOf m e.station = none)
    (out : contributes (s.station e.station).run.state = false) :
    cellOf s rate t m e = ⟨.absentStation, 0, 0⟩ := by
  simp [cellOf, used, noReport, out]

/-- Cases 4 and 5: no report of a contributing station; the due rule decides (R9). -/
theorem cellOf_contributing (used : e.selector ≠ .unused) (noReport : arrivalOf m e.station = none)
    (takesPart : contributes (s.station e.station).run.state = true) :
    cellOf s rate t m e =
      ⟨if isDue (s.station e.station).config.rate rate t then .missing else .notDue, 0, 0⟩ := by
  cases due : isDue (s.station e.station).config.rate rate t <;> simp [cellOf, used, noReport, takesPart, due]

end

/-- Settles O46: one clause for each case of R122, in their order. -/
theorem cellsFollowTheFirstCaseThatApplies : Obligations.CellsFollowTheFirstCaseThatApplies := by
  intro s rate t m e cell state carried
  have carried_eq (p : Report) : carried p = carriedValue p e.selector := rfl
  refine ⟨cellOf_unused, fun used => ⟨fun p held => ⟨fun lacks => ?_, fun v carries => ?_⟩,
    fun noReport => ⟨fun notAdmitted notSilent => ?_, fun takesPart => ?_⟩⟩⟩
  · exact cellOf_short used held ((carried_eq p).symm.trans lacks)
  · exact cellOf_carried used held ((carried_eq p).symm.trans carries)
  · have out : contributes state = false :=
      Bool.eq_false_iff.2 fun h => (contributes_iff.1 h).elim notAdmitted notSilent
    exact cellOf_notContributing used noReport out
  · exact cellOf_contributing used noReport (contributes_iff.2 takesPart)

end Sys2Proof.Machine
end

section
/-! PROOFS. What a command does before the arbiters choose: `effect`, one row per command. Every command answers
`finish (effect c s)`, so an invariant of all steps is shown for `effect` and for `finish`. -/

namespace Sys2Proof.Machine

/-- What a command does to the state before the arbiters choose (R171). -/
def effect : Instr → State → State
  | .powerOn gap, s | .resetPinAsserted gap, s => powerOnReset (s.runClock gap)
  | .linkUp gap l, s => linkCameUp l (s.runClock gap)
  | .linkDown gap l, s => linkWentDown l (s.runClock gap)
  | .lineFrameReceived gap l bytes, s => lineReceived l bytes (s.runClock gap)
  | .centerFrameReceived gap c bytes, s => centerReceived c bytes (s.runClock gap)
  | .reportIntake gap, s => intake (s.runClock gap)
  | .marker gap i, s => marker i (s.runClock gap)
  | .timeMessage gap i bytes, s => receiveBytes i bytes (s.runClock gap)
  | .windowEnd i, s => windowEnd i s
  | .acquisitionTimerExpiry n, s => acquisitionTimer n s
  | .silenceTimerExpiry n, s => silenceTimerEnd n s
  | .latencyPeriodEnd, s => latencyPeriodOver s
  | .holdoverTimerExpiry, s => holdoverExpired s
  | .completionLimitExpiry d, s => limitExpired d s
  | .deadlineExpiry t k, s => deadlineReached t k s
  | .schedulePoint k, s => schedulePoint k s
  | .frameTransmissionComplete gap c, s => frameComplete c (s.runClock gap)
  | .setFragmentComplete gap c, s => fragmentComplete c (s.runClock gap)
  | .identify gap r, s => takeRequest (requestIs 1 r) r (handleIdentify r) (s.runClock gap)
  | .readGlobal gap r, s => takeRequest (requestIs 2 r) r (handleReadGlobal r) (s.runClock gap)
  | .writeGlobal gap r, s => takeRequest (requestIs 3 r) r (handleWriteGlobal r) (s.runClock gap)
  | .readStation gap r, s => takeRequest (requestIs 4 r) r (handleReadStation r) (s.runClock gap)
  | .writeStation gap r, s => takeRequest (requestIs 5 r) r (handleWriteStation r) (s.runClock gap)
  | .exchangeStation gap r, s => takeRequest (requestIs 6 r) r (handleExchangeStation r) (s.runClock gap)
  | .enableStation gap r, s => takeRequest (requestIs 7 r) r (handleEnableStation r) (s.runClock gap)
  | .disableStation gap r, s => takeRequest (requestIs 8 r) r (handleDisableStation r) (s.runClock gap)
  | .admitStation gap r, s => takeRequest (requestIs 9 r) r (handleAdmitStation r) (s.runClock gap)
  | .acceptShape gap r, s => takeRequest (requestIs 10 r) r (handleAcceptShape r) (s.runClock gap)
  | .readCounters gap r, s => takeRequest (requestIs 11 r) r (handleReadCounters r) (s.runClock gap)
  | .clearConditions gap r, s => takeRequest (requestIs 12 r) r (handleClearConditions r) (s.runClock gap)
  | .readStream gap r, s => takeRequest (requestIs 13 r) r (handleReadStream r) (s.runClock gap)
  | .writeStream gap r, s => takeRequest (requestIs 14 r) r (handleWriteStream r) (s.runClock gap)
  | .startStream gap r, s => takeRequest (requestIs 15 r) r (handleStartStream r) (s.runClock gap)
  | .stopStreamDrain gap r, s => takeRequest (isStopDrain r) r (handleStopDrain r) (s.runClock gap)
  | .stopStreamCut gap r, s => takeRequest (isStopCut r) r (handleStopCut r) (s.runClock gap)
  | .readPlan gap r, s => takeRequest (requestIs 17 r) r (handleReadPlan r) (s.runClock gap)
  | .writePlan gap r, s => takeRequest (requestIs 18 r) r (handleWritePlan r) (s.runClock gap)
  | .readTimeline gap r, s => takeRequest (requestIs 19 r) r (handleReadTimeline r) (s.runClock gap)
  | .readTimebase gap r, s => takeRequest (requestIs 20 r) r (handleReadTimebase r) (s.runClock gap)
  | .writeTimebase gap r, s => takeRequest (requestIs 21 r) r (handleWriteTimebase r) (s.runClock gap)
  | .readPort gap r, s => takeRequest (requestIs 22 r) r (handleReadPort r) (s.runClock gap)
  | .snapshot gap r, s => takeRequest (requestIs 23 r) r (handleSnapshot r) (s.runClock gap)
  | .flush gap r, s => takeRequest (requestIs 24 r) r (handleFlush r) (s.runClock gap)
  | .resetWarm gap r, s => takeRequest (requestIs 25 r) r (handleResetWarm r) (s.runClock gap)
  | .resetCold gap r, s => takeRequest (requestIs 26 r) r (handleResetCold r) (s.runClock gap)
  | .messageCutShort gap i, s => receiveByte i 0xA5 false (s.runClock gap)
  | .badRequestKind gap r, s => takeRequest (!requestKindOk r) r (handleBadKind r) (s.runClock gap)
  | .stopStreamBadMode gap r, s => takeRequest (isStopBadMode r) r (handleStopBadMode r) (s.runClock gap)

/-- Every command answers a next state: its effect, and then the choice of the arbiters. -/
theorem exec_eq_effect (c : Instr) (s : State) : exec c s = .next (finish (effect c s)) := by
  cases c <;> rfl

/-- A step idles on an empty queue, and otherwise is the effect of the front command and the arbiters' choice. -/
theorem step_cases {s t : State} (h : step s = .next t) :
    t = s ∨ ∃ c rest, s.pending = c :: rest ∧ t = finish (effect c { s with pending := rest }) := by
  unfold step at h
  split at h
  case h_1 =>
    cases h
    exact .inl rfl
  case h_2 c rest front =>
    rw [exec_eq_effect] at h
    cases h
    exact .inr ⟨c, rest, front, rfl⟩

/-- An invariant that does not look at the queue of commands, and that every effect and the arbiters' choice keep, is kept by
every step. -/
theorem step_keeps {Inv : State → Prop} (queue : ∀ s rest, Inv s → Inv { s with pending := rest })
    (effects : ∀ c s, Inv s → Inv (effect c s)) (chosen : ∀ s, Inv s → Inv (finish s)) {s t : State} (h : Inv s)
    (stepped : step s = .next t) : Inv t := by
  obtain rfl | ⟨c, rest, -, rfl⟩ := step_cases stepped
  · exact h
  · exact chosen _ (effects c _ (queue s rest h))

/-- Settles O1, by the two cases of `step`. -/
theorem stepRunsTheFrontCommand : Obligations.StepRunsTheFrontCommand := fun _ _ _ => ⟨rfl, rfl⟩

end Sys2Proof.Machine
end

section
/-! PROOFS. The Timeline, the Report Store and the queues through every step (O57, O59): `Sane` through each request handler,
then through each command's effect. -/

namespace Sys2Proof.Machine

/-! ## The request handlers -/

section
variable {s : State} (h : Sane s) (r : Request)
include h

theorem Sane.handleIdentify : Sane (handleIdentify r s) :=
  h.withPayload r 0 fun _ _ h => h.answerRequest _ _ _

theorem Sane.handleReadGlobal : Sane (handleReadGlobal r s) :=
  h.withPayload r 0 fun _ _ h => h.answerRequest _ _ _

theorem Sane.handleWriteGlobal : Sane (handleWriteGlobal r s) :=
  h.withPayload r 9 fun _ _ h => h.withValue r _ fun _ _ h => (h.withGlobals _).answerRequest _ _ _

theorem Sane.handleReadStation : Sane (handleReadStation r s) :=
  h.withPayload r 0 fun _ _ h => h.withStation r fun _ _ h => h.answerRequest _ _ _

theorem Sane.handleWriteStation : Sane (handleWriteStation r s) :=
  h.withPayload r 32 fun _ _ h => h.withStation r fun n _ h => h.withValue r _ fun c u h => by
    split
    · exact h.refuse _ _
    · exact (h.setConfig n c).answerRequest _ _ _

theorem Sane.handleExchangeStation : Sane (handleExchangeStation r s) :=
  h.withPayload r 33 fun _ _ h => h.withStation r fun n _ h => h.withValue r _ fun c u h => by
    split
    · exact h.refuse _ _
    · split
      · exact h.refuse _ _
      · exact (h.exchangeStation n c).answerRequest _ _ _

theorem Sane.handleEnableStation : Sane (handleEnableStation r s) :=
  h.withPayload r 0 fun _ _ h => h.withStation r fun n u h => by
    dsimp only
    split
    · exact h.refuse _ _
    · split
      · exact h.refuse _ _
      · exact h.withSlot r fun d _ h => (((h.setStation _ _).withCodeMap _).pushNotice _).answerOrHold n r d

theorem Sane.handleDisableStation : Sane (handleDisableStation r s) :=
  h.withPayload r 0 fun _ _ h => h.withStation r fun n u h => by
    split
    · exact h.answerRequest _ _ _
    · exact (h.disableStation n).answerRequest _ _ _

theorem Sane.handleAdmitStation : Sane (handleAdmitStation r s) :=
  h.withPayload r 0 fun _ _ h => h.withStation r fun n u h => by
    split
    · exact (h.moveStation _ _ _ _).answerRequest _ _ _
    · exact h.refuse _ _

theorem Sane.handleAcceptShape : Sane (handleAcceptShape r s) :=
  h.withPayload r 0 fun _ _ h => h.withStation r fun n u h => by
    split
    · exact h.withSlot r fun d _ h => (h.acquireShape _ _ _).answerOrHold n r d
    · exact h.refuse _ _

theorem Sane.handleReadCounters : Sane (handleReadCounters r s) :=
  h.withPayload r 0 fun _ _ h => h.withStation r fun _ _ h => (h.setRun _ _).answerRequest _ _ _

theorem Sane.handleClearConditions : Sane (handleClearConditions r s) :=
  h.withPayload r 2 fun p u h => by
    dsimp only
    split
    · refine h.withStation r fun n u h => ?_
      split
      · exact (h.clearStation n _).answerRequest _ _ _
      · exact h.refuse _ _
    · split
      · split
        · split
          · exact h.answerRequest _ _ _
          · split
            · exact (h.clearUnknownCode _).answerRequest _ _ _
            · exact h.refuse _ _
        · exact h.refuse _ _
      · exact h.refuse _ _

theorem Sane.handleReadStream : Sane (handleReadStream r s) :=
  h.withPayload r 0 fun _ _ h => h.withStream r fun _ _ h => h.answerRequest _ _ _

theorem Sane.handleWriteStream : Sane (handleWriteStream r s) :=
  h.withPayload r 19 fun _ _ h => h.withStream r fun k _ h => h.withValue r _ fun c u h => by
    dsimp only
    split
    · exact h.refuse _ _
    · split
      · exact h.refuse _ _
      · exact (h.setStream k { u.stream k with config := c } (h.within.sets k)).answerRequest _ _ _

theorem Sane.handleStartStream : Sane (handleStartStream r s) :=
  h.withPayload r 0 fun _ _ h => h.withStream r fun k u h => by
    split
    · split
      · exact (h.startStream k).answerRequest _ _ _
      · exact h.refuse _ _
    · exact h.answerRequest _ _ _
    · exact h.refuse _ _

theorem Sane.stopStopped : Sane (stopStopped r s) :=
  h.withSlot r fun _ _ h => h.answerRequest _ _ _

theorem Sane.handleStopDrain : Sane (handleStopDrain r s) :=
  h.withPayload r 1 fun _ _ h => h.withStream r fun k u h => by
    split
    · exact h.stopStopped r
    · exact h.refuse _ _
    · refine h.withSlot r fun d u h => ?_
      split
      · exact h.beginDrain k r d
      · exact (h.stopStream k _).answerRequest _ _ _

theorem Sane.handleStopCut : Sane (handleStopCut r s) :=
  h.withPayload r 1 fun _ _ h => h.withStream r fun k u h => by
    split
    · exact h.stopStopped r
    · exact h.withSlot r fun _ _ h => (h.cutStream k).answerRequest _ _ _

theorem Sane.handleStopBadMode : Sane (handleStopBadMode r s) :=
  h.withPayload r 1 fun _ _ h => h.withStream r fun _ _ h => h.refuse _ _

theorem Sane.handleFlush : Sane (handleFlush r s) :=
  h.withPayload r 0 fun _ _ h => (Sane.foldl (fun _ k h => h.flushStream k) _ h).answerRequest _ _ _

theorem Sane.handleReadPlan : Sane (handleReadPlan r s) :=
  h.withPayload r 3 fun _ _ h => h.withStream r fun k u h => by
    dsimp only
    split
    · exact h.refuse _ _
    · split
      · exact h.refuse _ _
      · exact h.answerRequest _ _ _

theorem Sane.handleWritePlan : Sane (handleWritePlan r s) :=
  h.withPayload r _ fun _ _ h => h.withStream r fun k u h => by
    dsimp only
    split
    · exact h.refuse _ _
    · split
      · exact h.refuse _ _
      · refine h.withValue r _ fun l u h => ?_
        split
        · exact h.refuse _ _
        · exact (h.withPlan _).answerRequest _ _ _

theorem Sane.handleReadTimeline : Sane (handleReadTimeline r s) := by
  unfold Machine.handleReadTimeline
  split
  · exact h.withPayload r 0 fun _ _ h => h.answerRequest _ _ _
  · exact h.withPayload r 8 fun _ _ h => h.withValue r _ fun _ _ h => h.answerRequest _ _ _

theorem Sane.handleReadTimebase : Sane (handleReadTimebase r s) :=
  h.withPayload r 0 fun _ _ h => h.answerRequest _ _ _

theorem Sane.handleWriteTimebase : Sane (handleWriteTimebase r s) :=
  h.withPayload r 4 fun _ _ h => h.withValue r _ fun _ _ h => (h.withTimebase _).answerRequest _ _ _

theorem Sane.handleReadPort : Sane (handleReadPort r s) :=
  h.withPayload r 0 fun _ u h => by
    split
    · exact h.answerRequest _ _ _
    · exact h.refuse _ _

theorem Sane.handleSnapshot : Sane (handleSnapshot r s) :=
  h.withPayload r 1 fun _ u h => by
    split
    · exact h.refuse _ _
    · split
      · exact (h.pushNotice _).answerRequest _ _ _
      · exact h.refuse _ _

theorem Sane.handleResetWarm : Sane (handleResetWarm r s) :=
  h.withPayload r 0 fun _ _ h => h.warmReset.answerRequest _ _ _

theorem Sane.handleResetCold : Sane (handleResetCold r s) :=
  h.withPayload r 0 fun _ u _ => (Sane.coldReset u).answerRequest _ _ _

end

/-! ## The message lines and the time-driven events -/

section
variable {s : State} (h : Sane s)
include h

theorem Sane.setQuiet (i : InputId) (t : Nat) : Sane (s.setQuiet i t) :=
  h.of (by simp) (by simp) (by simpa using h.within.notices) (by simpa using h.within.requests)
    (by simpa using h.within.passThrough) (fun l => by cases i <;> exact h.within.received l)
    (fun c => by simpa using h.within.answers c) (fun k => by cases i <;> exact h.within.sets k)

theorem Sane.receiveByte (i : InputId) (value : Byte) (fault : Bool) : Sane (receiveByte i value fault s) :=
  (h.setInput i _).setQuiet i _

theorem Sane.receiveBytes (i : InputId) (bytes : LineBytes) : Sane (receiveBytes i bytes s) :=
  Sane.foldl (fun _ b h => (h.runClock b.gap).receiveByte i b.value b.fault) _ (h.receiveByte i bytes.value bytes.fault)

theorem Sane.acquisitionTimer (n : StationNo) : Sane (acquisitionTimer n s) := by
  unfold Machine.acquisitionTimer
  split
  · exact h
  · exact Sane.acquisitionExpired (h.runClock _) n

theorem Sane.silenceTimerEnd (n : StationNo) : Sane (silenceTimerEnd n s) := by
  unfold Machine.silenceTimerEnd
  split
  · exact h
  · exact Sane.silenceExpired (h.runClock _) n

theorem Sane.limitExpired (d : SlotNo) : Sane (limitExpired d s) := by
  unfold Machine.limitExpired
  split
  · exact h
  · exact Sane.endSlot (h.runClock _) d _ _

theorem Sane.deadlineReached (t : GridTime) (k : StreamNo) : Sane (deadlineReached t k s) := by
  unfold Machine.deadlineReached
  split
  · exact h
  · exact Sane.expireDeadline (h.runClock _) t k

theorem Sane.schedulePoint (k : StreamNo) : Sane (schedulePoint k s) := by
  unfold Machine.schedulePoint
  split
  · exact h
  · exact Sane.reachSchedule (h.runClock _) k _

end

/-! ## Every command -/

/-- Every command's effect is sane. -/
theorem Sane.effect (c : Instr) (s : State) (h : Sane s) : Sane (effect c s) := by
  have clock := fun gap => h.runClock gap
  cases c with
  | powerOn gap => exact Sane.powerOnReset _
  | resetPinAsserted gap => exact Sane.powerOnReset _
  | linkUp gap l => exact (clock gap).linkCameUp l
  | linkDown gap l => exact (clock gap).linkWentDown l
  | lineFrameReceived gap l bytes => exact (clock gap).lineReceived l bytes
  | centerFrameReceived gap c bytes => exact (clock gap).centerReceived c bytes
  | reportIntake gap => exact (clock gap).intake
  | marker gap i => exact (clock gap).marker i
  | timeMessage gap i bytes => exact (clock gap).receiveBytes i bytes
  | windowEnd i => exact h.windowEnd i
  | acquisitionTimerExpiry n => exact h.acquisitionTimer n
  | silenceTimerExpiry n => exact h.silenceTimerEnd n
  | latencyPeriodEnd => exact h.latencyPeriodOver
  | holdoverTimerExpiry => exact h.holdoverExpired
  | completionLimitExpiry d => exact h.limitExpired d
  | deadlineExpiry t k => exact h.deadlineReached t k
  | schedulePoint k => exact h.schedulePoint k
  | frameTransmissionComplete gap c => exact (clock gap).frameComplete c
  | setFragmentComplete gap c => exact (clock gap).fragmentComplete c
  | identify gap r => exact (clock gap).takeRequest _ r fun _ h => h.handleIdentify r
  | readGlobal gap r => exact (clock gap).takeRequest _ r fun _ h => h.handleReadGlobal r
  | writeGlobal gap r => exact (clock gap).takeRequest _ r fun _ h => h.handleWriteGlobal r
  | readStation gap r => exact (clock gap).takeRequest _ r fun _ h => h.handleReadStation r
  | writeStation gap r => exact (clock gap).takeRequest _ r fun _ h => h.handleWriteStation r
  | exchangeStation gap r => exact (clock gap).takeRequest _ r fun _ h => h.handleExchangeStation r
  | enableStation gap r => exact (clock gap).takeRequest _ r fun _ h => h.handleEnableStation r
  | disableStation gap r => exact (clock gap).takeRequest _ r fun _ h => h.handleDisableStation r
  | admitStation gap r => exact (clock gap).takeRequest _ r fun _ h => h.handleAdmitStation r
  | acceptShape gap r => exact (clock gap).takeRequest _ r fun _ h => h.handleAcceptShape r
  | readCounters gap r => exact (clock gap).takeRequest _ r fun _ h => h.handleReadCounters r
  | clearConditions gap r => exact (clock gap).takeRequest _ r fun _ h => h.handleClearConditions r
  | readStream gap r => exact (clock gap).takeRequest _ r fun _ h => h.handleReadStream r
  | writeStream gap r => exact (clock gap).takeRequest _ r fun _ h => h.handleWriteStream r
  | startStream gap r => exact (clock gap).takeRequest _ r fun _ h => h.handleStartStream r
  | stopStreamDrain gap r => exact (clock gap).takeRequest _ r fun _ h => h.handleStopDrain r
  | stopStreamCut gap r => exact (clock gap).takeRequest _ r fun _ h => h.handleStopCut r
  | readPlan gap r => exact (clock gap).takeRequest _ r fun _ h => h.handleReadPlan r
  | writePlan gap r => exact (clock gap).takeRequest _ r fun _ h => h.handleWritePlan r
  | readTimeline gap r => exact (clock gap).takeRequest _ r fun _ h => h.handleReadTimeline r
  | readTimebase gap r => exact (clock gap).takeRequest _ r fun _ h => h.handleReadTimebase r
  | writeTimebase gap r => exact (clock gap).takeRequest _ r fun _ h => h.handleWriteTimebase r
  | readPort gap r => exact (clock gap).takeRequest _ r fun _ h => h.handleReadPort r
  | snapshot gap r => exact (clock gap).takeRequest _ r fun _ h => h.handleSnapshot r
  | flush gap r => exact (clock gap).takeRequest _ r fun _ h => h.handleFlush r
  | resetWarm gap r => exact (clock gap).takeRequest _ r fun _ h => h.handleResetWarm r
  | resetCold gap r => exact (clock gap).takeRequest _ r fun _ h => h.handleResetCold r
  | messageCutShort gap i => exact (clock gap).receiveByte i _ _
  | badRequestKind gap r => exact (clock gap).takeRequest _ r fun _ h => h.refuse r _
  | stopStreamBadMode gap r => exact (clock gap).takeRequest _ r fun _ h => h.handleStopBadMode r

theorem Sane.withPending (s : State) (l : List Instr) (h : Sane s) : Sane { s with pending := l } :=
  h.of rfl rfl h.within.notices h.within.requests h.within.passThrough h.within.received
    (centers_of rfl rfl h.within.answers) h.within.sets

theorem Sane.step {s t : State} (h : Sane s) (stepped : step s = .next t) : Sane t :=
  step_keeps Sane.withPending Sane.effect (fun _ h => h.finish) h stepped

/-- Settles O57: the ordered Timeline with accounted slots and the capacities are kept together. -/
theorem everyStepKeepsTheCapacities : Obligations.EveryStepKeepsTheCapacities :=
  fun _ _ within store stepped => (Sane.step ⟨store, within⟩ stepped).within

/-- Settles O59, by the same step lemma. -/
theorem everyStepKeepsTheSlotsAccountedFor : Obligations.EveryStepKeepsTheSlotsAccountedFor :=
  fun _ _ store within stepped => (Sane.step ⟨store, within⟩ stepped).store

end Sys2Proof.Machine
end

section
/-! PROOFS. What the request handlers come to, whatever is asked of them: each check passes the request on or refuses it
(R184), and most requests leave the Timebase, the Code Map and what the map says of the descriptors alone (`Steady`). -/

namespace Sys2Proof.Machine

/-! ## The checks of a request, for any property of the next state -/

section
variable {P : State → Prop} {r : Request} {s : State}

/-- The agent takes a request or finds nothing to take (R182). -/
theorem takeRequest_ind {row : Bool} {act : State → State} (idle : P s)
    (taken : ∀ rest, P (act { s with inputQueue := rest })) : P (takeRequest row r act s) := by
  unfold takeRequest
  split
  case isFalse => exact idle
  case isTrue =>
    split
    case h_1 => exact idle
    case h_2 q rest _ =>
      split
      · exact taken rest
      · exact idle

variable (refused : ∀ x, P (refuse r x s))
include refused

theorem withPayload_ind {n : Nat} {act : List Byte → State → State} (acts : ∀ p, P (act p s)) :
    P (withPayload r n act s) := by
  unfold withPayload
  split
  · exact acts _
  · exact refused _

theorem withStation_ind {act : StationNo → State → State} (acts : ∀ n, P (act n s)) : P (withStation r act s) := by
  unfold withStation
  split
  · exact acts _
  · exact refused _

theorem withStream_ind {act : StreamNo → State → State} (acts : ∀ k, P (act k s)) : P (withStream r act s) := by
  unfold withStream
  split
  · exact acts _
  · exact refused _

theorem withValue_ind {α : Type} {x : Option α} {act : α → State → State} (acts : ∀ v, P (act v s)) :
    P (withValue r x act s) := by
  unfold withValue
  split
  · exact acts _
  · exact refused _

theorem withSlot_ind {act : Option SlotNo → State → State} (acts : ∀ d, P (act d s)) : P (withSlot r act s) := by
  unfold withSlot
  split
  · split
    · exact acts _
    · exact refused _
  · exact acts _

end

/-! ## Requests that are steady -/

theorem answerRequest_steady (r : Request) (x : Result) (p : List Byte) (s : State) :
    Steady s (answerRequest r x p s) := (placeAnswer_kept _ _ s).steady

theorem refuse_steady (r : Request) (s : State) (x : Result) : Steady s (refuse r x s) := answerRequest_steady r x [] s

/-- A steady operation and then the request's answer. -/
theorem Steady.answered {s t : State} (h : Steady s t) (r : Request) (x : Result) (p : List Byte) :
    Steady s (answerRequest r x p t) := h.trans (answerRequest_steady r x p t)

theorem answerOrHold_steady (n : StationNo) (r : Request) (d : Option SlotNo) (s : State) :
    Steady s (answerOrHold n r d s) := by
  unfold answerOrHold
  split
  · exact answerRequest_steady _ _ _ _
  · exact (setSlot_kept _ _ _).steady.trans (setRun_kept _ _ _ (by rfl)).steady

theorem clearLatch_steady (n : StationNo) (c : Condition) (s : State) : Steady s (clearLatch n c s) := by
  have cleared := (putLatch_kept n c .clear s).steady
  unfold clearLatch
  dsimp only
  split
  · exact cleared.trans (setLatch_kept _ _ _ _).steady
  · exact cleared

theorem clearStation_steady (n : StationNo) (mask : Nat) (s : State) : Steady s (clearStation n mask s) := by
  refine Steady.foldl _ (fun s c => ?_) _ s
  split
  · exact clearLatch_steady n c s
  · exact .refl s

theorem setStream_steady (k : StreamNo) (x : Stream) (s : State) : Steady s (s.setStream k x) :=
  ⟨rfl, rfl, rfl, fun _ => rfl, fun _ => rfl, fun _ => Iff.rfl⟩

theorem withGlobals_steady (g : Globals) (s : State) : Steady s { s with globals := g } :=
  ⟨rfl, rfl, rfl, fun _ => rfl, fun _ => rfl, fun _ => Iff.rfl⟩

theorem withPlan_steady (v : Vector PlanEntry 4096) (s : State) : Steady s { s with plan := v } :=
  ⟨rfl, rfl, rfl, fun _ => rfl, fun _ => rfl, fun _ => Iff.rfl⟩

theorem beginDrain_steady (k : StreamNo) (r : Request) (d : Option SlotNo) (s : State) :
    Steady s (beginDrain k r d s) := by
  have draining := (setStreamRun_kept k { (s.stream k).run with state := .draining } s).steady.trans
    (pushNotice_kept (.streamState k (s.stream k).run.state .draining .drain) _).steady
  unfold beginDrain
  dsimp only
  split
  · exact draining.answered _ _ _
  · exact draining.trans ((setSlot_kept _ _ _).steady.trans (setStreamRun_kept _ _ _).steady)

section
variable (r : Request) (s : State)

/-- A request that answers with bytes that it reads. -/
theorem reading_steady (n : Nat) (bytes : List Byte → State → List Byte) :
    Steady s (withPayload r n (fun p s => answerRequest r .ok (bytes p s) s) s) :=
  withPayload_ind (P := Steady s) (refuse_steady r s) fun _ => answerRequest_steady _ _ _ _

theorem handleWriteGlobal_steady : Steady s (handleWriteGlobal r s) :=
  withPayload_ind (P := Steady s) (refuse_steady r s) fun _ => withValue_ind (P := Steady s) (refuse_steady r s) fun _ =>
    (withGlobals_steady _ s).answered _ _ _

theorem handleReadStation_steady : Steady s (handleReadStation r s) :=
  withPayload_ind (P := Steady s) (refuse_steady r s) fun _ => withStation_ind (P := Steady s) (refuse_steady r s) fun _ =>
    answerRequest_steady _ _ _ _

theorem handleAdmitStation_steady : Steady s (handleAdmitStation r s) :=
  withPayload_ind (P := Steady s) (refuse_steady r s) fun _ => withStation_ind (P := Steady s) (refuse_steady r s) fun n => by
    split
    case isTrue held => exact (moveStation_steady n _ _ _ s (by decide) (by simp [held])).answered _ _ _
    case isFalse => exact refuse_steady _ _ _

theorem handleAcceptShape_steady : Steady s (handleAcceptShape r s) :=
  withPayload_ind (P := Steady s) (refuse_steady r s) fun _ => withStation_ind (P := Steady s) (refuse_steady r s) fun n => by
    split
    case h_1 x held _ =>
      exact withSlot_ind (P := Steady s) (refuse_steady r s) fun d =>
        (acquireShape_steady n _ _ s (by simp [held])).trans (answerOrHold_steady n r d _)
    case h_2 => exact refuse_steady _ _ _

theorem handleReadCounters_steady : Steady s (handleReadCounters r s) :=
  withPayload_ind (P := Steady s) (refuse_steady r s) fun _ => withStation_ind (P := Steady s) (refuse_steady r s) fun _ =>
    (setRun_kept _ _ _ (by rfl)).steady.answered _ _ _

theorem handleClearConditions_steady : Steady s (handleClearConditions r s) :=
  withPayload_ind (P := Steady s) (refuse_steady r s) fun p => by
    dsimp only
    split
    · refine withStation_ind (P := Steady s) (refuse_steady r s) fun n => ?_
      split
      · exact (clearStation_steady _ _ _).answered _ _ _
      · exact refuse_steady _ _ _
    · split
      · split
        · split
          · exact answerRequest_steady _ _ _ _
          · split
            · exact (setLine_steady _ _ _).answered _ _ _
            · exact refuse_steady _ _ _
        · exact refuse_steady _ _ _
      · exact refuse_steady _ _ _

theorem handleReadStream_steady : Steady s (handleReadStream r s) :=
  withPayload_ind (P := Steady s) (refuse_steady r s) fun _ => withStream_ind (P := Steady s) (refuse_steady r s) fun _ =>
    answerRequest_steady _ _ _ _

theorem handleWriteStream_steady : Steady s (handleWriteStream r s) :=
  withPayload_ind (P := Steady s) (refuse_steady r s) fun _ => withStream_ind (P := Steady s) (refuse_steady r s) fun k =>
    withValue_ind (P := Steady s) (refuse_steady r s) fun c => by
      dsimp only
      split
      · exact refuse_steady _ _ _
      · split
        · exact refuse_steady _ _ _
        · exact (setStream_steady _ _ _).answered _ _ _

theorem handleStartStream_steady : Steady s (handleStartStream r s) :=
  withPayload_ind (P := Steady s) (refuse_steady r s) fun _ => withStream_ind (P := Steady s) (refuse_steady r s) fun k => by
    split
    · split
      · exact (startStream_kept k s).steady.answered _ _ _
      · exact refuse_steady _ _ _
    · exact answerRequest_steady _ _ _ _
    · exact refuse_steady _ _ _

theorem stopStopped_steady : Steady s (stopStopped r s) :=
  withSlot_ind (P := Steady s) (refuse_steady r s) fun _ => answerRequest_steady _ _ _ _

theorem handleStopDrain_steady : Steady s (handleStopDrain r s) :=
  withPayload_ind (P := Steady s) (refuse_steady r s) fun _ => withStream_ind (P := Steady s) (refuse_steady r s) fun k => by
    split
    · exact stopStopped_steady r s
    · exact refuse_steady _ _ _
    · refine withSlot_ind (P := Steady s) (refuse_steady r s) fun d => ?_
      split
      · exact beginDrain_steady k r d s
      · exact (stopStream_kept k _ s).steady.answered _ _ _

theorem handleStopCut_steady : Steady s (handleStopCut r s) :=
  withPayload_ind (P := Steady s) (refuse_steady r s) fun _ => withStream_ind (P := Steady s) (refuse_steady r s) fun k => by
    split
    · exact stopStopped_steady r s
    · exact withSlot_ind (P := Steady s) (refuse_steady r s) fun _ => (cutStream_kept k s).steady.answered _ _ _

theorem handleStopBadMode_steady : Steady s (handleStopBadMode r s) :=
  withPayload_ind (P := Steady s) (refuse_steady r s) fun _ => withStream_ind (P := Steady s) (refuse_steady r s) fun _ =>
    refuse_steady _ _ _

theorem handleFlush_steady : Steady s (handleFlush r s) :=
  withPayload_ind (P := Steady s) (refuse_steady r s) fun _ =>
    (Kept.foldl _ flushStream_kept allStreams s).steady.answered _ _ _

theorem handleReadPlan_steady : Steady s (handleReadPlan r s) :=
  withPayload_ind (P := Steady s) (refuse_steady r s) fun _ => withStream_ind (P := Steady s) (refuse_steady r s) fun k => by
    dsimp only
    split
    · exact refuse_steady _ _ _
    · split
      · exact refuse_steady _ _ _
      · exact answerRequest_steady _ _ _ _

theorem handleWritePlan_steady : Steady s (handleWritePlan r s) :=
  withPayload_ind (P := Steady s) (refuse_steady r s) fun _ => withStream_ind (P := Steady s) (refuse_steady r s) fun k => by
    dsimp only
    split
    · exact refuse_steady _ _ _
    · split
      · exact refuse_steady _ _ _
      · refine withValue_ind (P := Steady s) (refuse_steady r s) fun l => ?_
        split
        · exact refuse_steady _ _ _
        · exact (withPlan_steady _ s).answered _ _ _

theorem handleReadTimeline_steady : Steady s (handleReadTimeline r s) := by
  unfold handleReadTimeline
  split
  · exact reading_steady r s 0 _
  · exact withPayload_ind (P := Steady s) (refuse_steady r s) fun _ =>
      withValue_ind (P := Steady s) (refuse_steady r s) fun _ => answerRequest_steady _ _ _ _

theorem handleReadPort_steady : Steady s (handleReadPort r s) :=
  withPayload_ind (P := Steady s) (refuse_steady r s) fun _ => by
    split
    · exact answerRequest_steady _ _ _ _
    · exact refuse_steady _ _ _

theorem handleSnapshot_steady : Steady s (handleSnapshot r s) :=
  withPayload_ind (P := Steady s) (refuse_steady r s) fun _ => by
    split
    · exact refuse_steady _ _ _
    · split
      · exact (pushNotice_kept _ _).steady.answered _ _ _
      · exact refuse_steady _ _ _

end

end Sys2Proof.Machine
end

section
/-! PROOFS. The Timebase through every step (O56). Most commands leave it alone but for local time, which `TimebaseOk` does not
look at; the others are the markers, the message lines, the window ends, the holdover timer, WRITE_TIMEBASE and the resets. -/

namespace Sys2Proof.Machine

/-! ## Consistency of the parts -/

/-- A state's Timebase is consistent. -/
abbrev TimeOk (s : State) : Prop := TimebaseOk s.timebase

/-- What `TimebaseOk` asks of one input by itself. -/
structure InputOk (x : RefInput) : Prop where
  good   : x.goodSeconds ≤ 8
  missed : x.missed ≤ 2
  absent : x.qual = .absent → x.lastMarker = none ∧ x.lastSecond = none ∧ x.missed = 0

theorem TimebaseOk.inputOk {tb : Timebase} (h : TimebaseOk tb) (i : InputId) : InputOk (tb.input i) :=
  ⟨h.good i, h.missed i, h.absent i⟩

/-- Local time and the configuration are no part of consistency, and a first setting may be done. -/
theorem TimebaseOk.congr {tb tb' : Timebase} (h : TimebaseOk tb) (mode : tb'.mode = tb.mode)
    (first : tb'.firstPending = true → tb.firstPending = true) (timer : tb'.holdoverTimer = tb.holdoverTimer)
    (known : tb'.timeKnown = tb.timeKnown) (input : ∀ i, tb'.input i = tb.input i) : TimebaseOk tb' where
  locked i := by simpa only [mode, input] using h.locked i
  unlocked i := by simpa only [mode, input] using h.unlocked i
  known := by simpa only [mode, known] using h.known
  holdover := by simpa only [mode, timer] using h.holdover
  first e := by simpa only [mode] using h.first (first e)
  good i := by simpa only [input] using h.good i
  missed i := by simpa only [input] using h.missed i
  absent i := by simpa only [input] using h.absent i

/-- The Timebase locked to a QUALIFIED input, whatever its mode was before. -/
theorem TimebaseOk.of_locked {tb : Timebase} {i : InputId} (inputs : ∀ j, InputOk (tb.input j)) (mode : tb.mode = .locked i)
    (here : (tb.input i).qual = .qualified) (known : tb.timeKnown = true) (timer : tb.holdoverTimer = none) :
    TimebaseOk tb where
  locked j e := by
    rw [mode] at e
    cases e
    exact here
  unlocked _ _ := ⟨i, mode⟩
  known _ := known
  holdover := by simp [mode, timer]
  first _ := ⟨i, mode⟩
  good j := (inputs j).good
  missed j := (inputs j).missed
  absent j := (inputs j).absent

/-- The Timebase out of LOCKED, with no input QUALIFIED. -/
theorem TimebaseOk.of_unlocked {tb : Timebase} (inputs : ∀ j, InputOk (tb.input j)) (mode : ∀ i, tb.mode ≠ .locked i)
    (none : ∀ j, (tb.input j).qual ≠ .qualified) (known : tb.mode ≠ .free → tb.timeKnown = true)
    (timer : tb.holdoverTimer.isSome = true ↔ tb.mode = .holdover) (first : tb.firstPending = false) : TimebaseOk tb where
  locked i e := absurd e (mode i)
  unlocked i q := absurd q (none i)
  known := known
  holdover := timer
  first e := by simp [first] at e
  good j := (inputs j).good
  missed j := (inputs j).missed
  absent j := (inputs j).absent

section
variable {s : State} (h : TimeOk s)
include h

theorem TimeOk.same {t : State} (same : t.timebase = s.timebase) : TimeOk t := by
  rw [TimeOk, same]
  exact h

theorem TimeOk.steady {t : State} (g : Steady s t) : TimeOk t := TimeOk.same h g.timebase

theorem TimeOk.runClock (ns : Nat) : TimeOk (s.runClock ns) :=
  TimebaseOk.congr h rfl id rfl rfl fun i => by cases i <;> rfl

end

/-! ## Settings of local time -/

theorem timeStep_timebase (d : Int) (s : State) : (timeStep d s).timebase = s.timebase := by
  simp only [timeStep]
  rw [(Kept.foldl _ (stepStream_kept _) _ _).timebase, pushNotice_timebase]

/-- A setting changes local time and the first pending setting of the Timebase, and nothing else of it. -/
theorem setLocalTime_timebase (second : Nat) (s : State) :
    (setLocalTime second s).timebase = { s.timebase with localTime := ⟨second, 0⟩, firstPending := false } := by
  unfold setLocalTime
  dsimp only
  split
  · exact timeStep_timebase _ _
  · split
    · exact (reachAll_kept _).timebase
    · rfl

theorem TimeOk.setLocalTime {s : State} (h : TimeOk s) (second : Nat) : TimeOk (setLocalTime second s) := by
  rw [TimeOk, setLocalTime_timebase]
  exact TimebaseOk.congr h rfl nofun rfl rfl fun i => by cases i <;> rfl

/-! ## Inputs -/

theorem inputs_after_setInput {i : InputId} {x : RefInput} {s : State} (inputs : ∀ j, InputOk (inputOf s j))
    (hx : InputOk x) (j : InputId) : InputOk (inputOf (setInput i x s) j) := by
  by_cases same : j = i
  · subst same
    rwa [inputOf_setInput]
  · rw [inputOf_setInput_other s x same]
    exact inputs j

theorem TimeOk.setInput {s : State} (h : TimeOk s) (i : InputId) {x : RefInput} (hx : InputOk x)
    (locked : s.timebase.mode = .locked i → x.qual = .qualified)
    (unlocked : x.qual = .qualified → ∃ j, s.timebase.mode = .locked j) : TimeOk (setInput i x s) := by
  have inputs := inputs_after_setInput (i := i) (fun j => TimebaseOk.inputOk h j) hx
  have qual (j : InputId) : j = i ∧ inputOf (Machine.setInput i x s) j = x ∨
      inputOf (Machine.setInput i x s) j = inputOf s j := by
    by_cases same : j = i
    · subst same
      exact .inl ⟨rfl, inputOf_setInput s j x⟩
    · exact .inr (inputOf_setInput_other s x same)
  refine ⟨fun j mode => ?_, fun j q => ?_, ?_, ?_, ?_, fun j => (inputs j).good, fun j => (inputs j).missed,
    fun j => (inputs j).absent⟩
  · rw [setInput_mode] at mode
    obtain ⟨rfl, e⟩ | e := qual j
    · exact (congrArg RefInput.qual e).trans (locked mode)
    · exact (congrArg RefInput.qual e).trans (h.locked j mode)
  · rw [setInput_mode]
    obtain ⟨-, e⟩ | e := qual j
    · exact unlocked ((congrArg RefInput.qual e).symm.trans q)
    · exact h.unlocked j ((congrArg RefInput.qual e).symm.trans q)
  · simpa using h.known
  · simpa using h.holdover
  · simpa using h.first

theorem changeInput_timebase (i : InputId) (x : RefInput) (c : InputCause) (s : State) :
    (changeInput i x c s).timebase = (setInput i x s).timebase := by
  unfold changeInput
  split
  · rfl
  · exact pushNotice_timebase _ _

theorem inputs_after_changeInput {i : InputId} {x : RefInput} {c : InputCause} {s : State}
    (inputs : ∀ j, InputOk (inputOf s j)) (hx : InputOk x) (j : InputId) : InputOk (inputOf (changeInput i x c s) j) := by
  rw [inputOf, changeInput_timebase]
  exact inputs_after_setInput inputs hx j

theorem TimeOk.changeInput {s : State} (h : TimeOk s) (i : InputId) {x : RefInput} (c : InputCause) (hx : InputOk x)
    (locked : s.timebase.mode = .locked i → x.qual = .qualified)
    (unlocked : x.qual = .qualified → ∃ j, s.timebase.mode = .locked j) : TimeOk (changeInput i x c s) := by
  rw [TimeOk, changeInput_timebase]
  exact TimeOk.setInput h i hx locked unlocked

/-- A change of an input that keeps its qualification. -/
theorem TimeOk.setInput_same {s : State} (h : TimeOk s) (i : InputId) {x : RefInput} (hx : InputOk x)
    (qual : x.qual = (inputOf s i).qual) : TimeOk (Machine.setInput i x s) :=
  TimeOk.setInput h i hx (fun mode => qual.trans (h.locked i mode)) fun q => h.unlocked i (qual.symm.trans q)

/-! ## Locks and losses -/

theorem lockTo_timebase (i : InputId) (c : TimebaseCause) (s : State) : (lockTo i c s).timebase = { s.timebase with
    mode := .locked i, firstPending := true, timeKnown := true, holdoverTimer := none } := pushNotice_timebase _ _

/-- Entry to LOCKED on a QUALIFIED input (R138, R142, R143). -/
theorem TimeOk.lockTo {s : State} {i : InputId} (inputs : ∀ j, InputOk (inputOf s j))
    (here : (inputOf s i).qual = .qualified) (c : TimebaseCause) : TimeOk (lockTo i c s) := by
  rw [TimeOk, lockTo_timebase]
  exact .of_locked (i := i) (fun j => by cases j; exacts [inputs .a, inputs .b]) rfl (by cases i <;> exact here) rfl rfl

theorem otherInput_ne {i j : InputId} (h : j ≠ i) : j = otherInput i := by
  cases i with
  | a => cases j with
    | a => exact absurd rfl h
    | b => rfl
  | b => cases j with
    | a => rfl
    | b => exact absurd rfl h

/-- The locked input has left QUALIFIED: the other one takes over, or HOLDOVER begins (R141). -/
theorem TimeOk.loseLocked {s : State} {i : InputId} (inputs : ∀ j, InputOk (inputOf s j)) (known : s.timebase.timeKnown = true)
    (lost : (inputOf s i).qual ≠ .qualified) : TimeOk (loseLocked i s) := by
  unfold Machine.loseLocked
  split
  case isTrue other => exact TimeOk.lockTo inputs other _
  case isFalse other =>
    have none (j : InputId) : (inputOf s j).qual ≠ .qualified := by
      by_cases same : j = i
      · exact same ▸ lost
      · exact otherInput_ne same ▸ other
    rw [TimeOk, changeMode, pushNotice_timebase]
    exact .of_unlocked (fun j => by cases j; exacts [inputs .a, inputs .b]) (by simp) (fun j => by cases j; exacts [none .a, none .b])
      (fun _ => known) (by simp) rfl

/-- An input that is no longer QUALIFIED is lost to a Timebase that was consistent before. -/
theorem TimeOk.inputLost {s : State} (h : TimeOk s) (i : InputId) {x : RefInput} (c : InputCause) (hx : InputOk x)
    (lost : x.qual ≠ .qualified) : TimeOk (inputLost i (Machine.changeInput i x c s)) := by
  unfold Machine.inputLost
  have inputs := inputs_after_changeInput (c := c) (i := i) (fun j => TimebaseOk.inputOk h j) hx
  split
  case isTrue mode =>
    rw [changeInput_mode] at mode
    refine TimeOk.loseLocked inputs ?_ (by rwa [inputOf_changeInput])
    rw [changeInput_timebase, setInput_timeKnown]
    exact h.known (by simp [mode])
  case isFalse mode =>
    rw [changeInput_mode] at mode
    exact TimeOk.changeInput h i c hx (fun e => absurd e mode) fun q => absurd q lost

/-! ## Markers -/

theorem afterGood_ok {x : RefInput} (present : x.qual ≠ .absent) (now second : Nat) : InputOk (x.afterGood now second) where
  good := Nat.min_le_left _ _
  missed := Nat.zero_le _
  absent e := by
    unfold RefInput.afterGood at e
    dsimp only at e
    split at e
    · cases e
    · exact absurd e present

theorem afterBad_ok (x : RefInput) (now : Nat) : InputOk (x.afterBad now) := ⟨Nat.zero_le _, Nat.zero_le _, nofun⟩

theorem afterLoss_ok (x : RefInput) : InputOk x.afterLoss := ⟨Nat.zero_le _, Nat.zero_le _, fun _ => ⟨rfl, rfl, rfl⟩⟩

/-- A good second takes no qualification away. -/
theorem afterGood_qualified {x : RefInput} (q : x.qual = .qualified) (now second : Nat) :
    (x.afterGood now second).qual = .qualified := by
  simp [RefInput.afterGood, q]

theorem TimeOk.firstMarker {s : State} (h : TimeOk s) {i : InputId} (absent : (inputOf s i).qual = .absent) :
    TimeOk (firstMarker i s) := by
  have same := TimebaseOk.inputOk h i
  unfold Machine.firstMarker
  dsimp only
  split
  case h_1 => exact h
  case h_2 m _ =>
    split
    · refine TimeOk.changeInput h i _ ⟨by simp, same.missed, nofun⟩ (fun mode => ?_) nofun
      have := h.locked i mode
      rw [inputOf] at absent
      rw [absent] at this
      cases this
    · exact TimeOk.setInput_same h i ⟨same.good, same.missed, same.absent⟩ rfl

/-- The Timebase's part of a good second, after which the input has the qualification that the second gives it (R138, R142). -/
theorem TimeOk.goodSecondOf {s : State} (h : TimeOk s) (i : InputId) {x : RefInput} (second : Nat) (hx : InputOk x)
    (keeps : (inputOf s i).qual = .qualified → x.qual = .qualified) :
    TimeOk (goodSecondOf i second (!((inputOf s i).qual == .qualified) && x.qual == .qualified)
      (Machine.changeInput i x .qualified s)) := by
  have inputs := inputs_after_changeInput (c := .qualified) (i := i) (fun j => TimebaseOk.inputOk h j) hx
  have lock (c : TimebaseCause) (q : x.qual = .qualified) :
      TimeOk (Machine.setLocalTime second (Machine.lockTo i c (Machine.changeInput i x .qualified s))) :=
    TimeOk.setLocalTime (TimeOk.lockTo inputs (by rwa [inputOf_changeInput]) c) second
  have unlocked (free : ∀ j, s.timebase.mode ≠ .locked j) : (inputOf s i).qual ≠ .qualified := fun q => by
    obtain ⟨j, mode⟩ := h.unlocked i q
    exact free j mode
  have outside (free : ∀ j, s.timebase.mode ≠ .locked j) : TimeOk (if (!((inputOf s i).qual == .qualified) &&
      x.qual == .qualified) = true then Machine.setLocalTime second (Machine.lockTo i .qualified
        (Machine.changeInput i x .qualified s)) else Machine.changeInput i x .qualified s) := by
    have before := unlocked free
    split
    case isTrue became => exact lock _ (by simpa [before] using became)
    case isFalse became =>
      exact TimeOk.changeInput h i _ hx (fun mode => absurd mode (free i)) fun q => absurd q (by simpa [before] using became)
  unfold Machine.goodSecondOf
  rw [changeInput_mode]
  split
  case h_1 j mode =>
    have kept : TimeOk (Machine.changeInput i x .qualified s) :=
      TimeOk.changeInput h i _ hx (fun e => keeps (h.locked i e)) fun _ => ⟨j, mode⟩
    split
    · exact TimeOk.setLocalTime kept second
    · split
      case isTrue reverts => exact lock _ (by simpa using reverts.2.2)
      case isFalse => exact kept
  case h_2 mode => exact outside (by simp [mode])
  case h_3 mode => exact outside (by simp [mode])

theorem TimeOk.marker {s : State} (h : TimeOk s) (i : InputId) : TimeOk (marker i s) := by
  have same := TimebaseOk.inputOk h i
  unfold Machine.marker
  dsimp only
  split
  case isTrue absent => exact TimeOk.firstMarker h absent
  case isFalse present =>
    split
    · unfold acceptMarker
      dsimp only
      split
      · exact TimeOk.goodSecondOf h i _ (afterGood_ok present _ _) fun q => afterGood_qualified q _ _
      · split
        case isTrue => exact TimeOk.inputLost h i _ (afterBad_ok _ _) nofun
        case isFalse before =>
          exact TimeOk.changeInput h i _ (afterBad_ok _ _) (fun mode => absurd (h.locked i mode) before) nofun
    · exact TimeOk.setInput_same h i ⟨same.good, same.missed, same.absent⟩ rfl

/-! ## Window ends and the holdover timer -/

theorem TimeOk.windowMissed {s : State} (h : TimeOk s) {i : InputId} (present : (inputOf s i).qual ≠ .absent) :
    TimeOk (windowMissed i s) := by
  have same := TimebaseOk.inputOk h i
  unfold Machine.windowMissed
  dsimp only
  split
  case isTrue few =>
    exact TimeOk.setInput_same h i ⟨same.good, by unfold RefInput.afterMiss; exact few, fun e => absurd e present⟩ rfl
  case isFalse =>
    split
    case isTrue => exact TimeOk.inputLost h i _ (afterLoss_ok _) nofun
    case isFalse before =>
      exact TimeOk.changeInput h i _ (afterLoss_ok _) (fun mode => absurd (h.locked i mode) before) nofun

theorem TimeOk.windowEnd {s : State} (h : TimeOk s) (i : InputId) : TimeOk (windowEnd i s) := by
  unfold Machine.windowEnd
  dsimp only
  split
  case isTrue => exact h
  case isFalse present =>
    split
    · exact h
    · exact TimeOk.windowMissed (TimeOk.runClock h _) ((congrArg RefInput.qual (inputOf_runClock s _ i)).trans_ne present)

theorem TimeOk.holdoverExpired {s : State} (h : TimeOk s) : TimeOk (holdoverExpired s) := by
  unfold Machine.holdoverExpired
  split
  case h_1 => exact h
  case h_2 t running =>
    have mode : s.timebase.mode = .holdover := h.holdover.1 (by simp [running])
    have none (i : InputId) : (s.timebase.input i).qual ≠ .qualified := fun q => by
      obtain ⟨j, e⟩ := h.unlocked i q
      simp [mode] at e
    have pending : s.timebase.firstPending = false := Bool.eq_false_iff.2 fun e => by
      obtain ⟨j, e⟩ := h.first e
      simp [mode] at e
    rw [TimeOk, changeMode, pushNotice_timebase]
    exact .of_unlocked (fun j => by cases j; exacts [TimebaseOk.inputOk h .a, TimebaseOk.inputOk h .b]) (by simp)
      (fun j => by cases j; exacts [none .a, none .b])
      (by simp) (by simp) pending

/-! ## Message lines -/

theorem startMessage_ok {x : RefInput} (h : InputOk x) (fault : Bool) : InputOk (x.startMessage fault) :=
  ⟨h.good, h.missed, h.absent⟩

theorem judge_ok {x : RefInput} (h : InputOk x) (m : Assembly) : InputOk (x.judge m) ∧ (x.judge m).qual = x.qual := by
  unfold RefInput.judge
  split <;> exact ⟨⟨h.good, h.missed, h.absent⟩, rfl⟩

theorem takeByte_ok {x : RefInput} (h : InputOk x) (value : Byte) (fault : Bool) :
    InputOk (x.takeByte value fault) ∧ (x.takeByte value fault).qual = x.qual := by
  unfold RefInput.takeByte
  split
  · exact ⟨h, rfl⟩
  · dsimp only
    split
    · exact ⟨⟨h.good, h.missed, h.absent⟩, rfl⟩
    · exact judge_ok h _

theorem setQuiet_timeOk {s : State} (h : TimeOk s) (i : InputId) (t : Nat) : TimeOk (s.setQuiet i t) := by
  rw [TimeOk, State.setQuiet_timebase]
  exact h

theorem TimeOk.receiveByte {s : State} (h : TimeOk s) (i : InputId) (value : Byte) (fault : Bool) :
    TimeOk (receiveByte i value fault s) := by
  have same := TimebaseOk.inputOk h i
  have taken := takeByte_ok same value fault
  refine setQuiet_timeOk ?_ i _
  split
  · exact TimeOk.setInput_same h i (startMessage_ok same fault) rfl
  · exact TimeOk.setInput_same h i taken.1 taken.2

theorem TimeOk.receiveBytes {s : State} (h : TimeOk s) (i : InputId) (bytes : LineBytes) :
    TimeOk (receiveBytes i bytes s) := by
  unfold Machine.receiveBytes
  have first := TimeOk.receiveByte h i bytes.value bytes.fault
  generalize Machine.receiveByte i bytes.value bytes.fault s = u at first
  induction bytes.rest generalizing u with
  | nil => exact first
  | cons b l ih => exact ih _ (TimeOk.receiveByte (TimeOk.runClock first _) i _ _)

/-! ## Resets and requests -/

theorem coldReset_timeOk (s : State) : TimeOk (coldReset s) :=
  .of_unlocked (fun j => by cases j <;> exact ⟨Nat.zero_le _, Nat.zero_le _, fun _ => ⟨rfl, rfl, rfl⟩⟩) nofun
    (fun j => by cases j <;> nofun) (fun e => absurd rfl e) (by simp [coldReset, State.reset, Timebase.reset]) rfl

theorem placeAnswers_timebase (l : List SlotNo) (s : State) : (l.foldl abortSlot s).timebase = s.timebase := by
  induction l generalizing s with
  | nil => rfl
  | cons d l ih =>
    rw [List.foldl_cons, ih, abortSlot]
    split
    · rfl
    · exact placeAnswer_timebase _ _ _

theorem warmReset_timebase (s : State) : (warmReset s).timebase = s.timebase := placeAnswers_timebase _ _

theorem moveStation_timebase (n : StationNo) (new : StationState) (cause : StationCause) (run : StationRun) (s : State) :
    (moveStation n new cause run s).timebase = s.timebase := by
  unfold moveStation
  dsimp only
  split
  · rw [(completeDeferrals_kept _ _ _).timebase]
    simp
  · simp

theorem disableStation_timebase (n : StationNo) (s : State) : (disableStation n s).timebase = s.timebase := by
  unfold disableStation
  dsimp only
  split
  · rw [(leaveAwaited_kept _ _).timebase]
    exact moveStation_timebase _ _ _ _ _
  · exact moveStation_timebase _ _ _ _ _

theorem exchangeStation_timebase (n : StationNo) (c : StationConfig) (s : State) :
    (exchangeStation n c s).timebase = s.timebase := by
  have chosen (b : Prop) [Decidable b] (u : State) (m : List (Nat × StationNo)) :
      (if b then u else { u with codeMap := m }).timebase = u.timebase := by split <;> rfl
  have chosen' (b : Prop) [Decidable b] (u : State) (m : List (Nat × StationNo)) :
      (if b then { u with codeMap := m } else u).timebase = u.timebase := by split <;> rfl
  unfold exchangeStation
  dsimp only
  split
  · rw [(leaveAwaited_kept _ _).timebase, pushNotice_timebase, chosen', State.setStation_timebase,
      (completeDeferrals_kept _ _ _).timebase, chosen]
    rfl
  · rw [pushNotice_timebase, chosen', State.setStation_timebase, (completeDeferrals_kept _ _ _).timebase, chosen]
    rfl

/-! ## Every command -/

section
variable {s : State} (h : TimeOk s)
include h

theorem TimeOk.acquisitionTimer (n : StationNo) : TimeOk (acquisitionTimer n s) := by
  unfold Machine.acquisitionTimer
  split
  · exact h
  · exact TimeOk.steady (TimeOk.runClock h _) (acquisitionExpired_steady n _)

theorem TimeOk.silenceTimerEnd (n : StationNo) : TimeOk (silenceTimerEnd n s) := by
  unfold Machine.silenceTimerEnd
  split
  · exact h
  · exact TimeOk.steady (TimeOk.runClock h _) (silenceExpired_steady n _)

theorem TimeOk.limitExpired (d : SlotNo) : TimeOk (limitExpired d s) := by
  unfold Machine.limitExpired
  split
  · exact h
  · exact TimeOk.steady (TimeOk.runClock h _) (endSlot_kept d _ _ _).steady

theorem TimeOk.deadlineReached (t : GridTime) (k : StreamNo) : TimeOk (deadlineReached t k s) := by
  unfold Machine.deadlineReached
  split
  · exact h
  · exact TimeOk.steady (TimeOk.runClock h _) (expireDeadline_kept t k _).steady

theorem TimeOk.schedulePoint (k : StreamNo) : TimeOk (schedulePoint k s) := by
  unfold Machine.schedulePoint
  split
  · exact h
  · exact TimeOk.steady (TimeOk.runClock h _) (reachSchedule_kept k _ _).steady

theorem TimeOk.latencyPeriodOver : TimeOk (latencyPeriodOver s) := TimeOk.runClock h _

theorem TimeOk.linkCameUp (l : LinkId) : TimeOk (linkCameUp l s) := by
  cases l with
  | line l => exact TimeOk.steady h (setLine_steady _ _ _)
  | center c => exact TimeOk.steady h (setCenter_steady _ _ _)

theorem TimeOk.linkWentDown (l : LinkId) : TimeOk (linkWentDown l s) := by
  cases l with
  | line l => exact TimeOk.steady h (setLine_steady _ _ _)
  | center c => exact TimeOk.steady h ((abandon_steady c s).trans (setCenter_steady _ _ _))

theorem TimeOk.handleWriteTimebase (r : Request) : TimeOk (handleWriteTimebase r s) :=
  withPayload_ind (P := TimeOk) (fun x => TimeOk.steady h (refuse_steady r s x)) fun _ =>
    withValue_ind (P := TimeOk) (fun x => TimeOk.steady h (refuse_steady r s x)) fun c => by
      rw [TimeOk, answerRequest_timebase]
      exact TimebaseOk.congr h rfl id rfl rfl fun i => by cases i <;> rfl

theorem TimeOk.handleResetWarm (r : Request) : TimeOk (handleResetWarm r s) :=
  withPayload_ind (P := TimeOk) (fun x => TimeOk.steady h (refuse_steady r s x)) fun _ => by
    rw [TimeOk, answerRequest_timebase, warmReset_timebase]
    exact h

theorem TimeOk.handleResetCold (r : Request) : TimeOk (handleResetCold r s) :=
  withPayload_ind (P := TimeOk) (fun x => TimeOk.steady h (refuse_steady r s x)) fun _ => by
    rw [TimeOk, answerRequest_timebase]
    exact coldReset_timeOk s

end

/-- A reception on a line link leaves the Timebase alone. -/
theorem lineReceived_timebase (l : LineId) (bytes : List Byte) (s : State) :
    (lineReceived l bytes s).timebase = s.timebase := by
  unfold lineReceived classifyLine dropOnLine
  dsimp only
  split_ifs <;> rfl

/-- A reception on a center link leaves the Timebase alone. -/
theorem centerReceived_timebase (c : CenterId) (bytes : List Byte) (s : State) :
    (centerReceived c bytes s).timebase = s.timebase := by
  unfold centerReceived
  dsimp only
  split_ifs <;> simp

section
variable (r : Request) (s : State)

theorem handleWriteStation_timebase : (handleWriteStation r s).timebase = s.timebase :=
  withPayload_ind (P := (·.timebase = s.timebase)) (fun _ => refuse_timebase ..) fun _ =>
    withStation_ind (P := (·.timebase = s.timebase)) (fun _ => refuse_timebase ..) fun n =>
      withValue_ind (P := (·.timebase = s.timebase)) (fun _ => refuse_timebase ..) fun c => by
        split <;> simp

theorem handleEnableStation_timebase : (handleEnableStation r s).timebase = s.timebase :=
  withPayload_ind (P := (·.timebase = s.timebase)) (fun _ => refuse_timebase ..) fun _ =>
    withStation_ind (P := (·.timebase = s.timebase)) (fun _ => refuse_timebase ..) fun n => by
      dsimp only
      split
      · simp
      · split
        · simp
        · refine withSlot_ind (P := (·.timebase = s.timebase)) (fun _ => refuse_timebase ..) fun d => ?_
          rw [(answerOrHold_steady _ _ _ _).timebase, pushNotice_timebase]
          rfl

theorem handleDisableStation_timebase : (handleDisableStation r s).timebase = s.timebase :=
  withPayload_ind (P := (·.timebase = s.timebase)) (fun _ => refuse_timebase ..) fun _ =>
    withStation_ind (P := (·.timebase = s.timebase)) (fun _ => refuse_timebase ..) fun n => by
      split
      · simp
      · rw [answerRequest_timebase, disableStation_timebase]

theorem handleExchangeStation_timebase : (handleExchangeStation r s).timebase = s.timebase :=
  withPayload_ind (P := (·.timebase = s.timebase)) (fun _ => refuse_timebase ..) fun _ =>
    withStation_ind (P := (·.timebase = s.timebase)) (fun _ => refuse_timebase ..) fun n =>
      withValue_ind (P := (·.timebase = s.timebase)) (fun _ => refuse_timebase ..) fun c => by
        split
        · simp
        · split
          · simp
          · rw [answerRequest_timebase, exchangeStation_timebase]

end

/-- A request row keeps the Timebase consistent when its handler does. -/
theorem TimeOk.takeRequest {s : State} (h : TimeOk s) {row : Bool} {r : Request} {act : State → State}
    (ha : ∀ u, TimeOk u → TimeOk (act u)) : TimeOk (takeRequest row r act s) :=
  takeRequest_ind (P := TimeOk) h fun _ => ha _ h

/-- A request row whose handler is steady keeps the Timebase consistent. -/
theorem TimeOk.takeSteady {s : State} (h : TimeOk s) {row : Bool} {r : Request} {act : State → State}
    (ha : ∀ u, Steady u (act u)) : TimeOk (Machine.takeRequest row r act s) :=
  TimeOk.takeRequest h fun u hu => TimeOk.steady hu (ha u)

/-- A request row whose handler leaves the Timebase alone keeps it consistent. -/
theorem TimeOk.takeSame {s : State} (h : TimeOk s) {row : Bool} {r : Request} {act : State → State}
    (ha : ∀ u, (act u).timebase = u.timebase) : TimeOk (Machine.takeRequest row r act s) :=
  TimeOk.takeRequest h fun u hu => TimeOk.same hu (ha u)

/-- Every command's effect keeps the Timebase consistent. -/
theorem TimeOk.effect (c : Instr) (s : State) (h : TimeOk s) : TimeOk (effect c s) := by
  have clock := fun gap => TimeOk.runClock h gap
  cases c with
  | powerOn gap => exact coldReset_timeOk (s.runClock gap)
  | resetPinAsserted gap => exact coldReset_timeOk (s.runClock gap)
  | linkUp gap l => exact TimeOk.linkCameUp (clock gap) l
  | linkDown gap l => exact TimeOk.linkWentDown (clock gap) l
  | lineFrameReceived gap l bytes => exact TimeOk.same (clock gap) (lineReceived_timebase l bytes _)
  | centerFrameReceived gap c bytes => exact TimeOk.same (clock gap) (centerReceived_timebase c bytes _)
  | reportIntake gap => exact TimeOk.steady (clock gap) (intake_steady _)
  | marker gap i => exact TimeOk.marker (clock gap) i
  | timeMessage gap i bytes => exact TimeOk.receiveBytes (clock gap) i bytes
  | windowEnd i => exact TimeOk.windowEnd h i
  | acquisitionTimerExpiry n => exact TimeOk.acquisitionTimer h n
  | silenceTimerExpiry n => exact TimeOk.silenceTimerEnd h n
  | latencyPeriodEnd => exact TimeOk.latencyPeriodOver h
  | holdoverTimerExpiry => exact TimeOk.holdoverExpired h
  | completionLimitExpiry d => exact TimeOk.limitExpired h d
  | deadlineExpiry t k => exact TimeOk.deadlineReached h t k
  | schedulePoint k => exact TimeOk.schedulePoint h k
  | frameTransmissionComplete gap c => exact TimeOk.steady (clock gap) (frameComplete_steady c _)
  | setFragmentComplete gap c => exact TimeOk.steady (clock gap) (fragmentComplete_steady c _)
  | identify gap r => exact TimeOk.takeSteady (clock gap) fun u => reading_steady r u 0 _
  | readGlobal gap r => exact TimeOk.takeSteady (clock gap) fun u => reading_steady r u 0 _
  | writeGlobal gap r => exact TimeOk.takeSteady (clock gap) (handleWriteGlobal_steady r)
  | readStation gap r => exact TimeOk.takeSteady (clock gap) (handleReadStation_steady r)
  | writeStation gap r => exact TimeOk.takeSame (clock gap) (handleWriteStation_timebase r)
  | exchangeStation gap r => exact TimeOk.takeSame (clock gap) (handleExchangeStation_timebase r)
  | enableStation gap r => exact TimeOk.takeSame (clock gap) (handleEnableStation_timebase r)
  | disableStation gap r => exact TimeOk.takeSame (clock gap) (handleDisableStation_timebase r)
  | admitStation gap r => exact TimeOk.takeSteady (clock gap) (handleAdmitStation_steady r)
  | acceptShape gap r => exact TimeOk.takeSteady (clock gap) (handleAcceptShape_steady r)
  | readCounters gap r => exact TimeOk.takeSteady (clock gap) (handleReadCounters_steady r)
  | clearConditions gap r => exact TimeOk.takeSteady (clock gap) (handleClearConditions_steady r)
  | readStream gap r => exact TimeOk.takeSteady (clock gap) (handleReadStream_steady r)
  | writeStream gap r => exact TimeOk.takeSteady (clock gap) (handleWriteStream_steady r)
  | startStream gap r => exact TimeOk.takeSteady (clock gap) (handleStartStream_steady r)
  | stopStreamDrain gap r => exact TimeOk.takeSteady (clock gap) (handleStopDrain_steady r)
  | stopStreamCut gap r => exact TimeOk.takeSteady (clock gap) (handleStopCut_steady r)
  | readPlan gap r => exact TimeOk.takeSteady (clock gap) (handleReadPlan_steady r)
  | writePlan gap r => exact TimeOk.takeSteady (clock gap) (handleWritePlan_steady r)
  | readTimeline gap r => exact TimeOk.takeSteady (clock gap) (handleReadTimeline_steady r)
  | readTimebase gap r => exact TimeOk.takeSteady (clock gap) fun u => reading_steady r u 0 _
  | writeTimebase gap r => exact TimeOk.takeRequest (clock gap) fun _ hu => TimeOk.handleWriteTimebase hu r
  | readPort gap r => exact TimeOk.takeSteady (clock gap) (handleReadPort_steady r)
  | snapshot gap r => exact TimeOk.takeSteady (clock gap) (handleSnapshot_steady r)
  | flush gap r => exact TimeOk.takeSteady (clock gap) (handleFlush_steady r)
  | resetWarm gap r => exact TimeOk.takeRequest (clock gap) fun _ hu => TimeOk.handleResetWarm hu r
  | resetCold gap r => exact TimeOk.takeRequest (clock gap) fun _ hu => TimeOk.handleResetCold hu r
  | messageCutShort gap i => exact TimeOk.receiveByte (clock gap) i _ _
  | badRequestKind gap r => exact TimeOk.takeSteady (clock gap) fun u => refuse_steady r u _
  | stopStreamBadMode gap r => exact TimeOk.takeSteady (clock gap) (handleStopBadMode_steady r)

/-- Settles O56, by the effect of each command on the Timebase. -/
theorem everyStepKeepsTheTimebaseConsistent : Obligations.EveryStepKeepsTheTimebaseConsistent :=
  fun _ _ h stepped => step_keeps (Inv := TimeOk) (fun _ _ h => h) TimeOk.effect
    (fun s h => TimeOk.steady h (finish_steady s)) h stepped

end Sys2Proof.Machine
end

section
/-! PROOFS. The Code Map through every step (O58). Most commands leave the map and what it says of the descriptors alone
(`SameMap`); a descriptor that is replaced leaves the map with its old code and enters it with its new one. -/

namespace Sys2Proof.Machine

/-! ## What leaves the map alone -/

/-- `t` has the Code Map of `s`, and each descriptor its code, its enable field and its being DISABLED. -/
structure SameMap (s t : State) : Prop where
  codeMap  : t.codeMap = s.codeMap
  code     : ∀ n, (t.station n).config.code = (s.station n).config.code
  enable   : ∀ n, (t.station n).config.enable = (s.station n).config.enable
  disabled : ∀ n, (t.station n).run.state = .disabled ↔ (s.station n).run.state = .disabled

theorem Steady.sameMap {s t : State} (h : Steady s t) : SameMap s t := ⟨h.codeMap, h.code, h.enable, h.disabled⟩

theorem SameMap.trans {s t u : State} (h : SameMap s t) (g : SameMap t u) : SameMap s u :=
  ⟨g.codeMap.trans h.codeMap, fun n => (g.code n).trans (h.code n), fun n => (g.enable n).trans (h.enable n),
    fun n => (g.disabled n).trans (h.disabled n)⟩

theorem SameMap.of_stations {s t : State} (stations : t.stations = s.stations) (codeMap : t.codeMap = s.codeMap) :
    SameMap s t := by
  have same (n : StationNo) : t.station n = s.station n := by rw [State.station, State.station, stations]
  exact ⟨codeMap, fun n => by rw [same], fun n => by rw [same], fun n => by rw [same]⟩

theorem SameMap.refl (s : State) : SameMap s s := .of_stations rfl rfl

theorem CodeMapOk.of_sameMap {s t : State} (h : CodeMapOk s) (g : SameMap s t) : CodeMapOk t :=
  ⟨fun n => by rw [g.enable, h.enable, ne_eq, ne_eq, g.disabled n], by rw [g.codeMap]; exact h.sorted,
    fun code n => by rw [g.codeMap, h.lookup, ne_eq, ne_eq, g.disabled n, g.code]⟩

theorem runClock_map (ns : Nat) (s : State) : SameMap s (s.runClock ns) := .of_stations rfl rfl

theorem setInput_map (i : InputId) (x : RefInput) (s : State) : SameMap s (setInput i x s) := .of_stations (by simp) (by simp)

theorem changeInput_map (i : InputId) (x : RefInput) (c : InputCause) (s : State) : SameMap s (changeInput i x c s) := by
  unfold changeInput
  split
  · exact setInput_map _ _ _
  · exact (setInput_map _ _ _).trans (pushNotice_kept _ _).steady.sameMap

theorem changeMode_map (tb : Timebase) (c : TimebaseCause) (s : State) : SameMap s (changeMode tb c s) :=
  SameMap.trans (t := { s with timebase := tb }) (.of_stations rfl rfl) (pushNotice_kept _ _).steady.sameMap

/-- A change of every descriptor that keeps its configuration and its state. -/
theorem mapStations_map {f : Station → Station} (config : ∀ x, (f x).config = x.config)
    (state : ∀ x, (f x).run.state = x.run.state) (s : State) (e : Nat) :
    SameMap s { s with stations := mapVec f s.stations, latencyEnd := e } := by
  have at_ (n : StationNo) : State.station { s with stations := mapVec f s.stations, latencyEnd := e } n =
      f (s.station n) := getElem_mapVec_fin f s.stations n
  exact ⟨rfl, fun n => by rw [at_, config], fun n => by rw [at_, config], fun n => by rw [at_, state]⟩

theorem timeStep_map (d : Int) (s : State) : SameMap s (timeStep d s) := by
  simp only [timeStep]
  have stepped := (pushNotice_kept (.timeStep (stepMs d)) s).trans
    (Kept.foldl _ (stepStream_kept (pushNotice (.timeStep (stepMs d)) s).localTime) allStreams _)
  exact stepped.steady.sameMap.trans (mapStations_map (f := Station.untracked) (fun _ => rfl) (fun _ => rfl) _ _)

theorem setLocalTime_map (second : Nat) (s : State) : SameMap s (setLocalTime second s) := by
  have set : SameMap s { s with timebase := { s.timebase with localTime := ⟨second, 0⟩, firstPending := false } } :=
    .of_stations rfl rfl
  unfold setLocalTime
  dsimp only
  split
  · exact set.trans (timeStep_map _ _)
  · split
    · exact set.trans (reachAll_kept _).steady.sameMap
    · exact set

theorem inputLost_map (i : InputId) (s : State) : SameMap s (inputLost i s) := by
  unfold inputLost loseLocked lockTo
  split
  · split <;> exact changeMode_map _ _ _
  · exact .refl s

theorem goodSecondOf_map (i : InputId) (second : Nat) (became : Bool) (s : State) :
    SameMap s (goodSecondOf i second became s) := by
  have lock (c : TimebaseCause) : SameMap s (setLocalTime second (lockTo i c s)) :=
    (changeMode_map _ _ _).trans (setLocalTime_map _ _)
  unfold goodSecondOf
  split
  case h_1 =>
    split
    · exact setLocalTime_map _ _
    · split
      · exact lock _
      · exact .refl s
  all_goals
    split
    · exact lock _
    · exact .refl s

theorem marker_map (i : InputId) (s : State) : SameMap s (marker i s) := by
  unfold marker firstMarker acceptMarker
  dsimp only
  split
  · split
    · exact .refl s
    · split
      · exact changeInput_map _ _ _ _
      · exact setInput_map _ _ _
  · split
    · split
      · exact (changeInput_map _ _ _ _).trans (goodSecondOf_map _ _ _ _)
      · split
        · exact (changeInput_map _ _ _ _).trans (inputLost_map _ _)
        · exact changeInput_map _ _ _ _
    · exact setInput_map _ _ _

theorem windowEnd_map (i : InputId) (s : State) : SameMap s (windowEnd i s) := by
  unfold windowEnd windowMissed
  dsimp only
  split
  · exact .refl s
  · split
    · exact .refl s
    next e _ =>
      refine SameMap.trans (runClock_map (Config.markerHalfWindow + 1 + e - s.elapsed) s) (u := _) ?_
      split
      · exact setInput_map _ _ _
      · split
        · exact (changeInput_map _ _ _ _).trans (inputLost_map _ _)
        · exact changeInput_map _ _ _ _

theorem holdoverExpired_map (s : State) : SameMap s (holdoverExpired s) := by
  unfold holdoverExpired
  split
  · exact .refl s
  · exact (runClock_map _ s).trans (changeMode_map _ _ _)

theorem receiveByte_map (i : InputId) (value : Byte) (fault : Bool) (s : State) : SameMap s (receiveByte i value fault s) :=
  (setInput_map i _ s).trans (.of_stations (State.setQuiet_stations ..) (State.setQuiet_codeMap ..))

theorem receiveBytes_map (i : InputId) (bytes : LineBytes) (s : State) : SameMap s (receiveBytes i bytes s) := by
  unfold receiveBytes
  refine (receiveByte_map i bytes.value bytes.fault s).trans ?_
  generalize receiveByte i bytes.value bytes.fault s = u
  induction bytes.rest generalizing u with
  | nil => exact .refl u
  | cons b l ih => exact ((runClock_map _ _).trans (receiveByte_map _ _ _ _)).trans (ih _)

theorem latencyPeriodOver_map (s : State) : SameMap s (latencyPeriodOver s) :=
  (runClock_map _ s).trans (mapStations_map (f := Station.rolled) (fun _ => rfl) (fun _ => rfl) _ _)

theorem lineReceived_map (l : LineId) (bytes : List Byte) (s : State) : SameMap s (lineReceived l bytes s) := by
  refine .of_stations ?_ ?_ <;>
    · unfold lineReceived classifyLine dropOnLine
      dsimp only
      split_ifs <;> rfl

theorem centerReceived_map (c : CenterId) (bytes : List Byte) (s : State) : SameMap s (centerReceived c bytes s) := by
  refine .of_stations ?_ ?_ <;>
    · unfold centerReceived
      dsimp only
      split_ifs <;> simp

theorem acquisitionTimer_map (n : StationNo) (s : State) : SameMap s (acquisitionTimer n s) := by
  unfold acquisitionTimer
  split
  · exact .refl s
  · exact (runClock_map _ s).trans (acquisitionExpired_steady n _).sameMap

theorem silenceTimerEnd_map (n : StationNo) (s : State) : SameMap s (silenceTimerEnd n s) := by
  unfold silenceTimerEnd
  split
  · exact .refl s
  · exact (runClock_map _ s).trans (silenceExpired_steady n _).sameMap

theorem limitExpired_map (d : SlotNo) (s : State) : SameMap s (limitExpired d s) := by
  unfold limitExpired
  split
  · exact .refl s
  · exact (runClock_map _ s).trans (endSlot_kept d _ _ _).steady.sameMap

theorem deadlineReached_map (t : GridTime) (k : StreamNo) (s : State) : SameMap s (deadlineReached t k s) := by
  unfold deadlineReached
  split
  · exact .refl s
  · exact (runClock_map _ s).trans (expireDeadline_kept t k _).steady.sameMap

theorem schedulePoint_map (k : StreamNo) (s : State) : SameMap s (schedulePoint k s) := by
  unfold schedulePoint
  split
  · exact .refl s
  · exact (runClock_map _ s).trans (reachSchedule_kept k _ _).steady.sameMap

theorem linkCameUp_map (l : LinkId) (s : State) : SameMap s (linkCameUp l s) := by
  cases l with
  | line l => exact (setLine_steady _ _ _).sameMap
  | center c => exact (setCenter_steady _ _ _).sameMap

theorem linkWentDown_map (l : LinkId) (s : State) : SameMap s (linkWentDown l s) := by
  cases l with
  | line l => exact (setLine_steady _ _ _).sameMap
  | center c => exact ((abandon_steady c s).trans (setCenter_steady _ _ _)).sameMap

/-! ## A descriptor that is replaced -/

/-- The Code Map without the code of station n, if it is there (R42, R63). -/
def mapWithout (s : State) (n : StationNo) : List (Nat × StationNo) :=
  if (s.station n).run.state = .disabled then s.codeMap else codeRemove (s.station n).config.code n s.codeMap

theorem mapWithout_rising {s : State} (h : CodeMapOk s) (n : StationNo) : Rising (mapWithout s n) := by
  unfold mapWithout
  split
  · exact h.sorted
  · exact codeRemove_rising _ _ h.sorted

theorem codeLookup_mapWithout {s : State} (h : CodeMapOk s) (n : StationNo) (code : Nat) (m : StationNo) :
    codeLookup (mapWithout s n) code = some m ↔ codeLookup s.codeMap code = some m ∧ m ≠ n := by
  unfold mapWithout
  split
  case isTrue out =>
    refine ⟨fun found => ⟨found, ?_⟩, And.left⟩
    rintro rfl
    exact ((h.lookup code m).1 found).1 out
  case isFalse =>
    rw [codeLookup_codeRemove _ _ h.sorted]
    refine and_congr_right fun found => ⟨fun other => ?_, fun other same => other same.2.symm⟩
    rintro rfl
    exact other ⟨((h.lookup code m).1 found).2, rfl⟩

/-- The state in which station n has descriptor x, entered in the Code Map when it is enabled. -/
structure Replaced (s : State) (n : StationNo) (x : Station) (t : State) : Prop where
  codeMap : t.codeMap = if x.config.enable then codeInsert x.config.code n (mapWithout s n) else mapWithout s n
  here    : t.station n = x
  config  : ∀ m, m ≠ n → (t.station m).config = (s.station m).config
  state   : ∀ m, m ≠ n → (t.station m).run.state = (s.station m).run.state

theorem Replaced.of_other {s t : State} {n : StationNo} {x : Station}
    (codeMap : t.codeMap = if x.config.enable then codeInsert x.config.code n (mapWithout s n) else mapWithout s n)
    (here : t.station n = x) (others : ∀ m, m ≠ n → t.station m = s.station m) : Replaced s n x t :=
  ⟨codeMap, here, fun m other => by rw [others m other], fun m other => by rw [others m other]⟩

/-- A replaced descriptor keeps the map right when no other one has its code (R40, R41, R62). -/
theorem CodeMapOk.replaced {s t : State} (h : CodeMapOk s) {n : StationNo} {x : Station} (g : Replaced s n x t)
    (enable : x.config.enable = true ↔ x.run.state ≠ .disabled)
    (free : x.config.enable = true → ∀ m, codeLookup s.codeMap x.config.code = some m → m = n) : CodeMapOk t := by
  refine ⟨fun m => ?_, ?_, fun code m => ?_⟩
  · by_cases here : m = n
    · rw [here, g.here]
      exact enable
    · rw [g.config m here, g.state m here]
      exact h.enable m
  · rw [g.codeMap]
    split
    · exact codeInsert_rising _ _ (mapWithout_rising h n)
    · exact mapWithout_rising h n
  · rw [g.codeMap]
    split
    case isTrue on =>
      rw [codeLookup_codeInsert]
      split
      case isTrue same =>
        subst same
        by_cases here : m = n
        · subst here
          simp [g.here, enable.1 on]
        · rw [g.config m here, g.state m here, ← h.lookup]
          exact ⟨fun e => absurd (Option.some.inj e).symm here, fun found => absurd (free on m found) here⟩
      case isFalse differs =>
        rw [codeLookup_mapWithout h]
        by_cases here : m = n
        · subst here
          simp [g.here, differs]
        · rw [g.config m here, g.state m here, ← h.lookup]
          exact and_iff_left here
    case isFalse off =>
      rw [codeLookup_mapWithout h]
      by_cases here : m = n
      · subst here
        have out : x.run.state = .disabled := by
          by_contra live
          exact off (enable.2 live)
        simp [g.here, out]
      · rw [g.config m here, g.state m here, ← h.lookup]
        exact and_iff_left here

theorem stationConfigOf_enable {enable : Bool} {p : List Byte} {c : StationConfig} (h : stationConfigOf enable p = some c) :
    c.enable = enable := by
  simp only [stationConfigOf, Option.bind_eq_bind, Option.bind_eq_some_iff, Option.ite_none_right_eq_some] at h
  obtain ⟨_, _, _, _, _, _, _, _, _, _, _, _, _, _, _, same⟩ := h
  cases same
  rfl

/-! ## The requests that replace a descriptor -/

section
variable {s : State} (h : CodeMapOk s)
include h

theorem CodeMapOk.refuse (r : Request) (x : Result) : CodeMapOk (refuse r x s) := h.of_steady (refuse_steady r s x)

theorem CodeMapOk.answered (r : Request) (x : Result) (p : List Byte) : CodeMapOk (answerRequest r x p s) :=
  h.of_steady (answerRequest_steady r x p s)

theorem CodeMapOk.handleWriteStation (r : Request) : CodeMapOk (handleWriteStation r s) :=
  withPayload_ind (P := CodeMapOk) (h.refuse r) fun p => withStation_ind (P := CodeMapOk) (h.refuse r) fun n => by
    unfold withValue
    split
    case h_2 => exact h.refuse r _
    case h_1 c parsed =>
      beta_reduce
      split
      case isTrue => exact h.refuse r _
      case isFalse fits =>
        refine CodeMapOk.answered ?_ r _ _
        have kept : c.enable = (s.station n).config.enable := stationConfigOf_enable parsed
        by_cases out : (s.station n).run.state = .disabled
        · have off : c.enable = false := by
            rw [kept]
            exact Bool.eq_false_iff.2 fun on => (h.enable n).1 on out
          refine h.replaced (n := n) (x := ⟨c, (s.station n).run⟩) (.of_other ?_ (by simp) fun m other => ?_) (by simp [off, out])
            (by simp [off])
          · simp [off, mapWithout, out]
          · exact State.station_setConfig_other s c other.symm
        · have same : sameIdentity c (s.station n).config = true := by
            by_contra differs
            exact fits ⟨out, by simpa using differs⟩
          simp only [sameIdentity, Bool.and_eq_true, beq_iff_eq] at same
          exact h.of_steady (setConfig_steady n c s same.1.1 kept)

theorem CodeMapOk.handleEnableStation (r : Request) : CodeMapOk (handleEnableStation r s) :=
  withPayload_ind (P := CodeMapOk) (h.refuse r) fun p => withStation_ind (P := CodeMapOk) (h.refuse r) fun n => by
    dsimp only
    split
    case isTrue => exact h.refuse r _
    case isFalse legal =>
      split
      case isTrue => exact h.refuse r _
      case isFalse unused =>
        refine withSlot_ind (P := CodeMapOk) (h.refuse r) fun d => CodeMapOk.of_steady ?_ (answerOrHold_steady n r d _)
        refine CodeMapOk.of_steady ?_ (pushNotice_kept _ _).steady
        have out : (s.station n).run.state = .disabled := by
          by_contra live
          exact legal (.inl live)
        refine h.replaced (n := n) (x := ⟨{ (s.station n).config with enable := true }, .cleared .awaiting⟩)
          (.of_other ?_ (State.station_setStation_same s n _) fun m other => State.station_setStation_other s _ other.symm)
          (by simp [StationRun.cleared]) fun _ m found => ?_
        · simp [mapWithout, out]
        · simp [show codeLookup s.codeMap (s.station n).config.code = some m from found] at unused

theorem CodeMapOk.disableStation (n : StationNo) (live : (s.station n).run.state ≠ .disabled) :
    CodeMapOk (disableStation n s) := by
  unfold Machine.disableStation
  have out : CodeMapOk (State.setRun { s.setConfig n { (s.station n).config with enable := false } with
      codeMap := codeRemove (s.station n).config.code n s.codeMap } n
        { (s.station n).run.restarted with state := .disabled }) := by
    refine h.replaced (n := n) (x := ⟨{ (s.station n).config with enable := false },
      { (s.station n).run.restarted with state := .disabled }⟩) (.of_other ?_ ?_ fun m other => ?_) (by simp) (by simp)
    · simp [mapWithout, live]
    · exact (State.station_setRun_same _ n _).trans (congrArg (Station.mk · _)
        (congrArg Station.config (State.station_setConfig_same s n _)))
    · exact (State.station_setRun_other _ _ other.symm).trans (State.station_setConfig_other s _ other.symm)
  have moved : CodeMapOk (moveStation n .disabled .disable (s.station n).run.restarted
      { s.setConfig n { (s.station n).config with enable := false } with
        codeMap := codeRemove (s.station n).config.code n s.codeMap }) := by
    unfold moveStation
    exact out.of_steady ((pushNotice_kept _ _).steady.trans (completeDeferrals_kept _ _ _).steady)
  dsimp only
  split
  · exact moved.of_steady (leaveAwaited_kept n _).steady
  · exact moved

theorem CodeMapOk.handleDisableStation (r : Request) : CodeMapOk (handleDisableStation r s) :=
  withPayload_ind (P := CodeMapOk) (h.refuse r) fun p => withStation_ind (P := CodeMapOk) (h.refuse r) fun n => by
    split
    case isTrue => exact h.answered r _ _
    case isFalse live => exact (h.disableStation n live).answered r _ _

end

/-- The descriptor that EXCHANGE_STATION writes (R63). -/
def exchanged (c : StationConfig) : Station := ⟨c, .cleared (if c.enable then .awaiting else .disabled)⟩

/-- The descriptor is written, and its code entered when it is enabled (R63). -/
def enterExchanged (n : StationNo) (c : StationConfig) (u : State) : State :=
  let v := u.setStation n (exchanged c)
  if c.enable then { v with codeMap := codeInsert c.code n v.codeMap } else v

/-- The old code leaves the map, the deferrals end, and the new descriptor is entered (R63). -/
theorem Replaced.exchanged {s u : State} (n : StationNo) (c : StationConfig) (codeMap : u.codeMap = mapWithout s n)
    (stations : u.stations = s.stations) :
    Replaced s n (exchanged c) (enterExchanged n c (completeDeferrals n .aborted u)) := by
  have kept := completeDeferrals_kept n .aborted u
  have before (m : StationNo) : u.station m = s.station m := by rw [State.station, State.station, stations]
  have written : (enterExchanged n c (completeDeferrals n .aborted u)).stations =
      ((completeDeferrals n .aborted u).setStation n (Machine.exchanged c)).stations := by
    unfold enterExchanged
    dsimp only
    split <;> rfl
  have at_ (m : StationNo) : (enterExchanged n c (completeDeferrals n .aborted u)).station m =
      ((completeDeferrals n .aborted u).setStation n (Machine.exchanged c)).station m := by
    rw [State.station, written, State.station]
  refine ⟨?_, ?_, fun m other => ?_, fun m other => ?_⟩
  · rw [← codeMap, ← kept.codeMap, enterExchanged]
    split
    · rw [if_pos (by assumption : (Machine.exchanged c).config.enable = true)]
      rfl
    · rw [if_neg (by assumption : ¬ (Machine.exchanged c).config.enable = true)]
      rfl
  · rw [at_, State.station_setStation_same]
  · rw [at_, State.station_setStation_other _ _ other.symm, kept.stationConfig, before]
  · rw [at_, State.station_setStation_other _ _ other.symm, kept.stationState, before]

theorem CodeMapOk.exchangeStation {s : State} (h : CodeMapOk s) (n : StationNo) {c : StationConfig}
    (free : c.enable = true → ∀ m, codeLookup s.codeMap c.code = some m → m = n) : CodeMapOk (exchangeStation n c s) := by
  have entered (u : State) (codeMap : u.codeMap = mapWithout s n) (stations : u.stations = s.stations) (b : NoticeBody) :
      CodeMapOk (pushNotice b (enterExchanged n c (completeDeferrals n .aborted u))) :=
    CodeMapOk.of_steady (h.replaced (Replaced.exchanged n c codeMap stations)
      (by cases on : c.enable <;> simp [Machine.exchanged, StationRun.cleared, on]) free) (pushNotice_kept b _).steady
  have map : (if (s.station n).run.state = .disabled then withdraw n s else { withdraw n s with
      codeMap := codeRemove (s.station n).config.code n (withdraw n s).codeMap }).codeMap = mapWithout s n := by
    rw [mapWithout]
    split <;> rfl
  have stations : (if (s.station n).run.state = .disabled then withdraw n s else { withdraw n s with
      codeMap := codeRemove (s.station n).config.code n (withdraw n s).codeMap }).stations = s.stations := by
    split <;> rfl
  unfold Machine.exchangeStation
  dsimp only
  split
  · exact (entered _ map stations _).of_steady (leaveAwaited_kept n _).steady
  · exact entered _ map stations _

/-- A code that no other descriptor holds is answered by the map for this one only, if at all. -/
theorem free_of_not_held {s : State} {n : StationNo} {code : Nat} (h : ¬ codeHeldByOther s n code = true) (m : StationNo)
    (found : codeLookup s.codeMap code = some m) : m = n := by
  rw [codeHeldByOther, found] at h
  simpa using h

section
variable {s : State} (h : CodeMapOk s)
include h

theorem CodeMapOk.handleExchangeStation (r : Request) : CodeMapOk (handleExchangeStation r s) :=
  withPayload_ind (P := CodeMapOk) (h.refuse r) fun p => withStation_ind (P := CodeMapOk) (h.refuse r) fun n =>
    withValue_ind (P := CodeMapOk) (h.refuse r) fun c => by
      split
      case isTrue => exact h.refuse r _
      case isFalse =>
        split
        case isTrue => exact h.refuse r _
        case isFalse unused =>
          exact (h.exchangeStation n fun on => free_of_not_held fun held => unused ⟨on, held⟩).answered r _ _

theorem CodeMapOk.handleWriteTimebase (r : Request) : CodeMapOk (handleWriteTimebase r s) :=
  withPayload_ind (P := CodeMapOk) (h.refuse r) fun _ => withValue_ind (P := CodeMapOk) (h.refuse r) fun _ => by
    refine CodeMapOk.answered ?_ r _ _
    exact h.of_sameMap (.of_stations rfl rfl)

end

/-! ## Resets -/

theorem coldReset_codeMapOk (s : State) : CodeMapOk (coldReset s) := by
  have reset (n : StationNo) : (coldReset s).station n = .reset := by simp [State.station, coldReset, State.reset]
  exact ⟨fun n => by simp [reset, Station.reset, StationConfig.reset, StationRun.cleared], .nil,
    fun code n => by
      rw [reset]
      simp [coldReset, State.reset, codeLookup_nil, Station.reset, StationRun.cleared]⟩

theorem powerOnReset_codeMapOk (s : State) : CodeMapOk (powerOnReset s) :=
  (coldReset_codeMapOk s).of_sameMap (.of_stations rfl rfl)

theorem abortSlot_steady (s : State) (d : SlotNo) : Steady s (abortSlot s d) := by
  unfold abortSlot
  split
  · exact (Kept.refl s).steady
  · exact (setSlot_kept _ _ _).steady.trans (placeAnswer_kept _ _ _).steady

/-- The map is built anew from the descriptors, of which exactly the enabled ones are then not DISABLED (R65). -/
theorem CodeMapOk.rebuilt {s t : State} (h : CodeMapOk s) (codeMap : t.codeMap = codesOfEnabled s.stations)
    (stations : t.stations = mapVec Station.warm s.stations) : CodeMapOk t := by
  have warm (n : StationNo) : t.station n = (s.station n).warm := by
    rw [State.station, stations]
    exact getElem_mapVec_fin _ _ n
  have live (n : StationNo) : (s.station n).warm.run.state ≠ .disabled ↔ (s.station n).config.enable = true := by
    cases on : (s.station n).config.enable <;> simp [Station.warm, StationRun.cleared, on]
  refine ⟨fun n => ?_, ?_, fun code n => ?_⟩
  · rw [warm, live]
    rfl
  · rw [codeMap]
    exact codesOfEnabled_rising _
  · rw [warm, live, codeMap]
    exact codesOfEnabled_lookup s.stations h.distinct code n

theorem CodeMapOk.warmReset {s : State} (h : CodeMapOk s) : CodeMapOk (warmReset s) :=
  CodeMapOk.of_steady (h.rebuilt (by dsimp only) (by dsimp only)) (Steady.foldl _ abortSlot_steady allSlots _)

/-! ## Every command -/

section
variable {s : State} (h : CodeMapOk s)
include h

theorem CodeMapOk.handleResetWarm (r : Request) : CodeMapOk (handleResetWarm r s) :=
  withPayload_ind (P := CodeMapOk) (h.refuse r) fun _ => h.warmReset.answered r _ _

theorem CodeMapOk.handleResetCold (r : Request) : CodeMapOk (handleResetCold r s) :=
  withPayload_ind (P := CodeMapOk) (h.refuse r) fun _ => (coldReset_codeMapOk s).answered r _ _

end

/-- A request row keeps the Code Map right when its handler does. -/
theorem CodeMapOk.takeRequest {s : State} (h : CodeMapOk s) {row : Bool} {r : Request} {act : State → State}
    (ha : ∀ u, CodeMapOk u → CodeMapOk (act u)) : CodeMapOk (takeRequest row r act s) :=
  takeRequest_ind (P := CodeMapOk) h fun _ => ha _ (h.of_sameMap (.of_stations rfl rfl))

/-- A request row whose handler is steady keeps the Code Map right. -/
theorem CodeMapOk.takeSteady {s : State} (h : CodeMapOk s) {row : Bool} {r : Request} {act : State → State}
    (ha : ∀ u, Steady u (act u)) : CodeMapOk (Machine.takeRequest row r act s) :=
  CodeMapOk.takeRequest h fun u hu => hu.of_steady (ha u)

/-- Every command's effect keeps the Code Map right. -/
theorem CodeMapOk.effect (c : Instr) (s : State) (h : CodeMapOk s) : CodeMapOk (effect c s) := by
  have clock (gap : Nat) : CodeMapOk (s.runClock gap) := h.of_sameMap (runClock_map gap s)
  cases c with
  | powerOn gap => exact powerOnReset_codeMapOk (s.runClock gap)
  | resetPinAsserted gap => exact powerOnReset_codeMapOk (s.runClock gap)
  | linkUp gap l => exact (clock gap).of_sameMap (linkCameUp_map l _)
  | linkDown gap l => exact (clock gap).of_sameMap (linkWentDown_map l _)
  | lineFrameReceived gap l bytes => exact (clock gap).of_sameMap (lineReceived_map l bytes _)
  | centerFrameReceived gap c bytes => exact (clock gap).of_sameMap (centerReceived_map c bytes _)
  | reportIntake gap => exact (clock gap).of_steady (intake_steady _)
  | marker gap i => exact (clock gap).of_sameMap (marker_map i _)
  | timeMessage gap i bytes => exact (clock gap).of_sameMap (receiveBytes_map i bytes _)
  | windowEnd i => exact h.of_sameMap (windowEnd_map i s)
  | acquisitionTimerExpiry n => exact h.of_sameMap (acquisitionTimer_map n s)
  | silenceTimerExpiry n => exact h.of_sameMap (silenceTimerEnd_map n s)
  | latencyPeriodEnd => exact h.of_sameMap (latencyPeriodOver_map s)
  | holdoverTimerExpiry => exact h.of_sameMap (holdoverExpired_map s)
  | completionLimitExpiry d => exact h.of_sameMap (limitExpired_map d s)
  | deadlineExpiry t k => exact h.of_sameMap (deadlineReached_map t k s)
  | schedulePoint k => exact h.of_sameMap (schedulePoint_map k s)
  | frameTransmissionComplete gap c => exact (clock gap).of_steady (frameComplete_steady c _)
  | setFragmentComplete gap c => exact (clock gap).of_steady (fragmentComplete_steady c _)
  | identify gap r => exact (clock gap).takeSteady fun u => reading_steady r u 0 _
  | readGlobal gap r => exact (clock gap).takeSteady fun u => reading_steady r u 0 _
  | writeGlobal gap r => exact (clock gap).takeSteady (handleWriteGlobal_steady r)
  | readStation gap r => exact (clock gap).takeSteady (handleReadStation_steady r)
  | writeStation gap r => exact (clock gap).takeRequest fun _ hu => hu.handleWriteStation r
  | exchangeStation gap r => exact (clock gap).takeRequest fun _ hu => hu.handleExchangeStation r
  | enableStation gap r => exact (clock gap).takeRequest fun _ hu => hu.handleEnableStation r
  | disableStation gap r => exact (clock gap).takeRequest fun _ hu => hu.handleDisableStation r
  | admitStation gap r => exact (clock gap).takeSteady (handleAdmitStation_steady r)
  | acceptShape gap r => exact (clock gap).takeSteady (handleAcceptShape_steady r)
  | readCounters gap r => exact (clock gap).takeSteady (handleReadCounters_steady r)
  | clearConditions gap r => exact (clock gap).takeSteady (handleClearConditions_steady r)
  | readStream gap r => exact (clock gap).takeSteady (handleReadStream_steady r)
  | writeStream gap r => exact (clock gap).takeSteady (handleWriteStream_steady r)
  | startStream gap r => exact (clock gap).takeSteady (handleStartStream_steady r)
  | stopStreamDrain gap r => exact (clock gap).takeSteady (handleStopDrain_steady r)
  | stopStreamCut gap r => exact (clock gap).takeSteady (handleStopCut_steady r)
  | readPlan gap r => exact (clock gap).takeSteady (handleReadPlan_steady r)
  | writePlan gap r => exact (clock gap).takeSteady (handleWritePlan_steady r)
  | readTimeline gap r => exact (clock gap).takeSteady (handleReadTimeline_steady r)
  | readTimebase gap r => exact (clock gap).takeSteady fun u => reading_steady r u 0 _
  | writeTimebase gap r => exact (clock gap).takeRequest fun _ hu => hu.handleWriteTimebase r
  | readPort gap r => exact (clock gap).takeSteady (handleReadPort_steady r)
  | snapshot gap r => exact (clock gap).takeSteady (handleSnapshot_steady r)
  | flush gap r => exact (clock gap).takeSteady (handleFlush_steady r)
  | resetWarm gap r => exact (clock gap).takeRequest fun _ hu => hu.handleResetWarm r
  | resetCold gap r => exact (clock gap).takeRequest fun _ hu => hu.handleResetCold r
  | messageCutShort gap i => exact (clock gap).of_sameMap (receiveByte_map i _ _ _)
  | badRequestKind gap r => exact (clock gap).takeSteady fun u => refuse_steady r u _
  | stopStreamBadMode gap r => exact (clock gap).takeSteady (handleStopBadMode_steady r)

/-- Settles O58, by the effect of each command on the Code Map and the descriptors. -/
theorem everyStepKeepsTheCodeMap : Obligations.EveryStepKeepsTheCodeMap :=
  fun _ _ h stepped => step_keeps (Inv := CodeMapOk) (fun _ _ h => h.of_sameMap (.of_stations rfl rfl)) CodeMapOk.effect
    (fun s h => h.of_steady (finish_steady s)) h stepped

end Sys2Proof.Machine
end

section
/-! PROOFS. A request that is offered, of its row's kind and with its payload, is handled by what its row does with the
payload; and the resets: the power-on values (O2, O3), READ_COUNTERS (O27), the warm reset (O5) and the invariants at reset
(O60). -/

namespace Sys2Proof.Machine

/-! ## A request that passes the common checks -/

section
variable {k length gap : Nat} {r : Request} {s : State} {handle : Request → State → State}

/-- An offered request of a row that carries its payload is handled with it (R184). -/
theorem row_carried {row : Bool} {act : List Byte → State → State} (own : row = true) (carries : requestCarries r k length)
    (offers : s.offers r) (handled : handle r = withPayload r length act) :
    request gap row r handle s = .next (finish (act (r.delivered.take length) (s.taken gap))) := by
  rw [request_offered offers own, handled, withPayload_of_carries carries]

theorem row_stream {row : Bool} {act : List Byte → StreamNo → State → State} {n : StreamNo} (own : row = true)
    (carries : requestCarries r k length) (target : r.target = n.val) (offers : s.offers r)
    (handled : handle r = withPayload r length fun p => withStream r (act p)) :
    request gap row r handle s = .next (finish (act (r.delivered.take length) n (s.taken gap))) := by
  rw [row_carried own carries offers handled, withStream_of_target target]

theorem row_noStream {row : Bool} {act : List Byte → StreamNo → State → State} (own : row = true)
    (carries : requestCarries r k length) (target : 8 ≤ r.target) (offers : s.offers r)
    (handled : handle r = withPayload r length fun p => withStream r (act p)) :
    request gap row r handle s = .next (finish (refuse r .badTarget (s.taken gap))) := by
  rw [row_carried own carries offers handled, withStream_of_none target]

theorem row_failed {row : Bool} {act : List Byte → State → State} (own : row = true) (fails : requestFailsLength r k length)
    (offers : s.offers r) (handled : handle r = withPayload r length act) :
    request gap row r handle s = .next (finish (refuse r .badRequest (s.taken gap))) := by
  rw [request_offered offers own, handled, withPayload_of_fails fails]

theorem request_carried {act : List Byte → State → State} (carries : requestCarries r k length) (offers : s.offers r)
    (handled : handle r = withPayload r length act) :
    request gap (requestIs k r) r handle s = .next (finish (act (r.delivered.take length) (s.taken gap))) :=
  row_carried (requestIs_of_carries carries) carries offers handled

theorem request_failed {act : List Byte → State → State} (fails : requestFailsLength r k length) (offers : s.offers r)
    (handled : handle r = withPayload r length act) :
    request gap (requestIs k r) r handle s = .next (finish (refuse r .badRequest (s.taken gap))) :=
  row_failed (requestIs_of_fails fails) fails offers handled

theorem request_station {act : List Byte → StationNo → State → State} {n : StationNo} (carries : requestCarries r k length)
    (target : r.target = n.val) (offers : s.offers r)
    (handled : handle r = withPayload r length fun p => withStation r (act p)) :
    request gap (requestIs k r) r handle s = .next (finish (act (r.delivered.take length) n (s.taken gap))) := by
  rw [request_carried carries offers handled, withStation_of_target target]

theorem request_noStation {act : List Byte → StationNo → State → State} (carries : requestCarries r k length)
    (target : 1024 ≤ r.target) (offers : s.offers r)
    (handled : handle r = withPayload r length fun p => withStation r (act p)) :
    request gap (requestIs k r) r handle s = .next (finish (refuse r .badTarget (s.taken gap))) := by
  rw [request_carried carries offers handled, withStation_of_none target]

theorem request_stream {act : List Byte → StreamNo → State → State} {n : StreamNo} (carries : requestCarries r k length)
    (target : r.target = n.val) (offers : s.offers r)
    (handled : handle r = withPayload r length fun p => withStream r (act p)) :
    request gap (requestIs k r) r handle s = .next (finish (act (r.delivered.take length) n (s.taken gap))) :=
  row_stream (requestIs_of_carries carries) carries target offers handled

theorem request_noStream {act : List Byte → StreamNo → State → State} (carries : requestCarries r k length)
    (target : 8 ≤ r.target) (offers : s.offers r)
    (handled : handle r = withPayload r length fun p => withStream r (act p)) :
    request gap (requestIs k r) r handle s = .next (finish (refuse r .badTarget (s.taken gap))) :=
  row_noStream (requestIs_of_carries carries) carries target offers handled

theorem withSlot_of_none {act : Option SlotNo → State → State} (wait : r.wait = 0) : withSlot r act s = act none s :=
  if_neg (by omega)

theorem withSlot_of_full {act : Option SlotNo → State → State} (wait : r.wait = 1) (full : freeSlot s = none) :
    withSlot r act s = refuse r .busy s := by
  rw [withSlot, if_pos wait, full]

theorem withSlot_of_free {act : Option SlotNo → State → State} {d : SlotNo} (wait : r.wait = 1) (free : freeSlot s = some d) :
    withSlot r act s = act (some d) s := by
  rw [withSlot, if_pos wait, free]

end

/-! ## READ_COUNTERS -/

/-- Settles O27, by the row's own action. -/
theorem readCountersReturnsAndClears : Obligations.ReadCountersReturnsAndClears :=
  fun _ _ _ _ carries target offers => (request_station (handle := handleReadCounters) carries target offers rfl :)

/-! ## The power-on values -/

theorem coldReset_powerOnValues (s : State) : PowerOnValues s (coldReset s) where
  stations n := by
    rw [State.station]
    exact Vector.getElem_replicate _
  codeMap := rfl
  streams k := by
    rw [State.stream]
    exact Vector.getElem_replicate _
  plan i := Vector.getElem_replicate _
  timeline := rfl
  freeSlots := rfl
  forcedCloses := rfl
  storeDiscards := rfl
  timebase := rfl
  notices := ⟨rfl, rfl⟩
  lines l := getElem_mapVec_fin LineLink.cold s.lines l
  centers c := by cases c <;> rfl
  passThrough := rfl
  pointer := rfl
  inputQueue := rfl
  slots d := by
    rw [State.slot]
    exact Vector.getElem_replicate _
  quiet i := by cases i <;> rfl
  globals := rfl
  unitNumber := rfl

/-- The power-on values are those over any state with the same link states, unit number and idle times. -/
theorem PowerOnValues.over {s u t : State} (h : PowerOnValues u t) (lines : u.lines = s.lines) (center0 : u.center0 = s.center0)
    (center1 : u.center1 = s.center1) (quiet : ∀ i, u.quiet i = s.quiet i) (unit : u.unitNumber = s.unitNumber) :
    PowerOnValues s t :=
  { h with
    lines := fun l => by rw [h.lines l, State.line, State.line, lines]
    centers := fun c => by
      rw [h.centers]
      cases c <;> simp [State.center, center0, center1]
    quiet := fun i => (h.quiet i).trans (quiet i)
    unitNumber := h.unitNumber.trans unit }

theorem powerOnReset_powerOnValues (s : State) : PowerOnValues s (powerOnReset s) :=
  { coldReset_powerOnValues s with }

/-- With the power-on values nothing waits to be sent, and the arbiters begin nothing. -/
theorem PowerOnValues.finish {s t : State} (h : PowerOnValues s t) : finish t = t := by
  have idle (c : CenterId) : choose c t = t := choose_nothing c t (by rw [h.centers]) (fun k => by rw [h.streams]; rfl)
    h.notices.1 h.passThrough
  rw [Machine.finish, idle, idle]

/-- Settles O2: the resets give the power-on values, over which the arbiters begin nothing. -/
theorem powerOnAndResetPinGivePowerOnValues : Obligations.PowerOnAndResetPinGivePowerOnValues := by
  intro gap s
  have values : PowerOnValues s (powerOnReset (s.runClock gap)) :=
    (powerOnReset_powerOnValues _).over rfl rfl rfl (fun i => by cases i <;> rfl) rfl
  have reset : ∃ t, exec (.powerOn gap) s = .next t ∧ PowerOnValues s t ∧
      t.pending = s.pending ∧ t.elapsed = s.elapsed + gap ∧ t.latencyEnd = 10000000000 + t.elapsed := by
    rw [exec_powerOn, values.finish]
    exact ⟨_, rfl, values, rfl, rfl, rfl⟩
  exact ⟨reset, reset⟩

/-- Settles O3: RESET_COLD answers over the power-on values. -/
theorem coldResetAnswersAfterPowerOnValues : Obligations.ColdResetAnswersAfterPowerOnValues :=
  fun gap _ s carries offers => ⟨_, exec_resetCold_of_offers gap carries offers,
    (coldReset_powerOnValues (s.taken gap)).over rfl rfl rfl (fun i => by cases i <;> rfl) rfl, rfl, rfl, rfl⟩

/-! ## The invariants at reset -/

theorem reset_timebaseOk : TimebaseOk State.reset.timebase := (coldReset_timeOk State.reset :)

theorem reset_withinCapacity : WithinCapacity State.reset where
  notices := Nat.zero_le _
  records := Nat.zero_le _
  requests := Nat.zero_le _
  passThrough := Nat.zero_le _
  received l := by simp [State.line, State.reset, LineLink.reset]
  answers c := by cases c <;> simp [State.center, State.reset, CenterLink.reset]
  sets k := by simp [State.stream, State.reset, Stream.reset, StreamRun.reset]

theorem reset_codeMapOk : CodeMapOk State.reset := (coldReset_codeMapOk State.reset).of_sameMap <| .of_stations rfl rfl

theorem reset_storeOk : StoreOk State.reset := ⟨.nil, nofun, rfl⟩

/-- Settles O60, each invariant by the reset values it looks at. -/
theorem invariantsHoldAtReset : Obligations.InvariantsHoldAtReset :=
  ⟨reset_timebaseOk, reset_withinCapacity, reset_codeMapOk, reset_storeOk⟩

/-! ## RESET_WARM -/

/-- `t` differs from `s` at most in the center links and the deferral slots. -/
def SameButAnswers (s t : State) : Prop := t = { s with center0 := t.center0, center1 := t.center1, slots := t.slots }

theorem placeAnswer_sameButAnswers (c : CenterId) (a : Answer) (s : State) : SameButAnswers s (placeAnswer c a s) := by
  unfold placeAnswer SameButAnswers
  split
  · cases c <;> rfl
  · rfl

theorem SameButAnswers.trans {s t u : State} (h : SameButAnswers s t) (g : SameButAnswers t u) : SameButAnswers s u := by
  rw [SameButAnswers] at h g ⊢
  rw [g, h]

theorem abortSlot_sameButAnswers (s : State) (d : SlotNo) : SameButAnswers s (abortSlot s d) := by
  unfold abortSlot
  split
  · rfl
  · exact SameButAnswers.trans (t := s.setSlot d none) rfl (placeAnswer_sameButAnswers _ _ _)

theorem abortSlots_sameButAnswers (l : List SlotNo) (s : State) : SameButAnswers s (l.foldl abortSlot s) := by
  induction l generalizing s with
  | nil => rfl
  | cons d l ih => exact (abortSlot_sameButAnswers s d).trans (ih _)

theorem abortSlot_slot (s : State) (d e : SlotNo) : (abortSlot s d).slot e = if d = e then none else s.slot e := by
  unfold abortSlot
  split
  case h_1 empty =>
    split
    · rw [← ‹d = e›, empty]
    · rfl
  case h_2 => rw [State.slot, placeAnswer_slots, ← State.slot, State.slot_setSlot]

theorem abortSlots_slot (l : List SlotNo) (s : State) (e : SlotNo) :
    (l.foldl abortSlot s).slot e = if e ∈ l then none else s.slot e := by
  induction l generalizing s with
  | nil => simp
  | cons d l ih =>
    rw [List.foldl_cons, ih, abortSlot_slot]
    by_cases later : e ∈ l
    · simp [later]
    · simp [later, eq_comm]

/-- The answer queue of link c after a slot has been answered ABORTED (R171, R191). -/
def withAborted (s : State) (c : CenterId) (q : List Answer) (d : SlotNo) : List Answer :=
  match s.slot d with
  | some h => if h.link = c ∧ q.length < 8 then q ++ [⟨h.source, h.tag, h.kind, h.target, .aborted, []⟩] else q
  | none => q

/-- An answer joins the queue of its own link, when there is room (R171). -/
theorem center_placeAnswer (m c : CenterId) (a : Answer) (s : State) : (placeAnswer m a s).center c =
    { s.center c with answers := if m = c ∧ (s.center c).answers.length < 8 then (s.center c).answers ++ [a]
                                 else (s.center c).answers } := by
  unfold placeAnswer
  by_cases here : m = c
  · subst here
    by_cases room : (s.center m).answers.length < 8 <;> simp [room, Config.answerCapacity]
  · split <;> simp [here]

theorem abortSlot_center (s : State) (d : SlotNo) (c : CenterId) :
    (abortSlot s d).center c = { s.center c with answers := withAborted s c (s.center c).answers d } := by
  unfold abortSlot withAborted
  split
  case h_1 empty => rw [empty]
  case h_2 h held =>
    rw [held, center_placeAnswer, State.center_setSlot]

/-- Distinct slots are answered one after another; each is answered as it was held at first. -/
theorem abortSlots_center {l : List SlotNo} (distinct : l.Nodup) (s : State) (c : CenterId) :
    (l.foldl abortSlot s).center c = { s.center c with answers := l.foldl (withAborted s c) (s.center c).answers } := by
  induction l generalizing s with
  | nil => rfl
  | cons d l ih =>
    obtain ⟨fresh, distinct⟩ := List.nodup_cons.1 distinct
    have same (q : List Answer) : ∀ e ∈ l, withAborted (abortSlot s d) c q e = withAborted s c q e := fun e mem => by
      have later : d ≠ e := fun here => fresh (here ▸ mem)
      rw [withAborted, withAborted, abortSlot_slot, if_neg later]
    rw [List.foldl_cons, ih distinct, abortSlot_center, List.foldl_cons]
    rw [List.foldl_ext _ _ _ same]

/-- The blocks take their warm values, before the held slots are answered (R191). -/
def warmed (s : State) : State :=
  { s with
    center0 := { s.center0 with tx := none }
    center1 := { s.center1 with tx := none }
    stations := mapVec Station.warm s.stations
    codeMap := codesOfEnabled s.stations
    streams := mapVec Stream.warm s.streams
    timeline := []
    freeSlots := Config.slotCapacity
    forcedCloses := 0
    storeDiscards := 0
    notices := { s.notices with queue := [], overflow := false }
    lines := mapVec LineLink.warm s.lines }

theorem warmReset_eq (s : State) : warmReset s = allSlots.foldl abortSlot (warmed s) := rfl

theorem warmReset_sameButAnswers (s : State) : SameButAnswers (warmed s) (warmReset s) := abortSlots_sameButAnswers _ _

theorem warmReset_codeMap (s : State) : (warmReset s).codeMap = codesOfEnabled s.stations := by
  rw [congrArg State.codeMap (warmReset_sameButAnswers s)]
  dsimp only [warmed]

theorem warmReset_station (s : State) (n : StationNo) : (warmReset s).station n = (s.station n).warm := by
  rw [State.station, congrArg State.stations (warmReset_sameButAnswers s)]
  exact getElem_mapVec_fin _ _ n

theorem warmReset_stream (s : State) (k : StreamNo) : (warmReset s).stream k = (s.stream k).warm := by
  rw [State.stream, congrArg State.streams (warmReset_sameButAnswers s)]
  exact getElem_mapVec_fin _ _ k

theorem warmReset_line (s : State) (l : LineId) : (warmReset s).line l = (s.line l).warm := by
  rw [State.line, congrArg State.lines (warmReset_sameButAnswers s)]
  exact getElem_mapVec_fin _ _ l

theorem warmReset_slot (s : State) (d : SlotNo) : (warmReset s).slot d = none := by
  have every : d ∈ allSlots := by fin_cases d <;> decide
  rw [warmReset_eq, abortSlots_slot, if_pos every]

theorem warmReset_center (s : State) (c : CenterId) : (warmReset s).center c =
    { s.center c with tx := none, answers := allSlots.foldl (withAborted s c) (s.center c).answers } := by
  rw [warmReset_eq, abortSlots_center (by decide)]
  cases c <;> rfl

/-- Settles O5: RESET_WARM takes the warm values and answers its held slots one after another; a map built anew answers the
enabled descriptors. -/
theorem warmResetKeepsConfigurationAndAborts : Obligations.WarmResetKeepsConfigurationAndAborts := by
  refine ⟨fun gap r s carries offers => ?_, fun v code n distinct => codesOfEnabled_lookup v distinct code n⟩
  have answered := request_carried (gap := gap) (handle := handleResetWarm) carries offers rfl
  have same := warmReset_sameButAnswers (s.taken gap)
  have center (c : CenterId) := warmReset_center (s.taken gap) c
  have codeMap := warmReset_codeMap (s.taken gap)
  have station := warmReset_station (s.taken gap)
  have stream := warmReset_stream (s.taken gap)
  have line := warmReset_line (s.taken gap)
  have slot := warmReset_slot (s.taken gap)
  refine ⟨warmReset (s.taken gap), answered, ?_⟩
  generalize warmReset (s.taken gap) = t at *
  have kept {α : Type} (field : State → α) : field t = field { warmed (s.taken gap) with
      center0 := t.center0, center1 := t.center1, slots := t.slots } := congrArg field same
  refine ⟨station, codeMap, stream, kept (·.timeline), kept (·.freeSlots),
    kept (·.forcedCloses), kept (·.storeDiscards), kept (·.notices.queue),
    kept (·.notices.overflow), line, slot, fun c => ?_, fun c => ?_,
    kept (·.plan), kept (·.timebase), kept (·.globals), kept (·.unitNumber),
    kept (·.passThrough), kept (·.pointer), kept (·.inputQueue),
    kept (·.elapsed), kept (·.latencyEnd), kept (·.pending)⟩
  · rw [center, State.taken_center]
    exact ⟨rfl, rfl, rfl, rfl, rfl⟩
  · rw [center, State.taken_center]
    rfl

end Sys2Proof.Machine
end

section
/-! PROOFS. The common refusals of the requests (O33) and the stops of a stream (O37, O38). -/

namespace Sys2Proof.Machine

section
variable {r : Request}

theorem isStopDrain_of_mode (own : requestIs 16 r = true) (mode : stopMode r = some 0) : isStopDrain r = true := by
  simp [isStopDrain, own, mode]

theorem isStopCut_of_mode (own : requestIs 16 r = true) (mode : stopMode r = some 1) : isStopCut r = true := by
  simp [isStopCut, own, mode]

theorem isStopBadMode_of_mode (own : requestIs 16 r = true) (drain : stopMode r ≠ some 0) (cut : stopMode r ≠ some 1) :
    isStopBadMode r = true := by
  simp [isStopBadMode, own, drain, cut]

theorem requestKindOk_eq_false (bad : ¬(1 ≤ r.kind ∧ r.kind ≤ 26 ∧ r.wait ≤ 1)) : requestKindOk r = false := by
  simpa [requestKindOk, and_assoc] using bad

end

/-! ## The common refusals -/

theorem portBytes_of_none {s : State} {target : Nat} (h : 6 ≤ target) : portBytes s target = none := by
  unfold portBytes
  grind

/-- READ_TIMELINE takes a payload of 0 or of 8 bytes; any other is refused (R184). -/
theorem readTimeline_failed {gap : Nat} {r : Request} {s : State} (none : requestFailsLength r 19 0)
    (one : requestFailsLength r 19 8) (offers : s.offers r) :
    exec (.readTimeline gap r) s = .next (finish (refuse r .badRequest (s.taken gap))) := by
  by_cases empty : r.payloadLength = 0
  · exact request_failed (handle := handleReadTimeline) none offers (if_pos empty)
  · exact request_failed (handle := handleReadTimeline) one offers (if_neg empty)

/-- Settles O33: each row judges its payload's length and its target before it acts. -/
theorem commonRefusalsChangeNothing : Obligations.CommonRefusalsChangeNothing := by
  refine ⟨fun gap r s offers => ⟨?kind, ?_⟩, ?answers⟩
  case kind =>
    intro bad
    exact request_offered offers (by rw [requestKindOk_eq_false bad]; rfl) handleBadKind gap
  case answers =>
    intro c a r x p s
    exact ⟨fun room => if_pos room, fun full => if_neg (Nat.not_lt.2 full), rfl, rfl⟩
  refine ⟨fun h => request_failed (handle := handleIdentify) h offers rfl,
    fun h => request_failed (handle := handleReadGlobal) h offers rfl,
    fun h => request_failed (handle := handleWriteGlobal) h offers rfl,
    fun h => request_failed (handle := handleReadStation) h offers rfl,
    fun h => request_failed (handle := handleWriteStation) h offers rfl,
    fun h => request_failed (handle := handleExchangeStation) h offers rfl,
    fun h => request_failed (handle := handleEnableStation) h offers rfl,
    fun h => request_failed (handle := handleDisableStation) h offers rfl,
    fun h => request_failed (handle := handleAdmitStation) h offers rfl,
    fun h => request_failed (handle := handleAcceptShape) h offers rfl,
    fun h => request_failed (handle := handleReadCounters) h offers rfl,
    fun h => request_failed (handle := handleClearConditions) h offers rfl,
    fun h => request_failed (handle := handleReadStream) h offers rfl,
    fun h => request_failed (handle := handleWriteStream) h offers rfl,
    fun h => request_failed (handle := handleStartStream) h offers rfl,
    fun h => ⟨fun mode => row_failed (handle := handleStopDrain) (isStopDrain_of_mode (requestIs_of_fails h) mode) h offers rfl,
      fun mode => row_failed (handle := handleStopCut) (isStopCut_of_mode (requestIs_of_fails h) mode) h offers rfl,
      fun drain cut => row_failed (handle := handleStopBadMode)
        (isStopBadMode_of_mode (requestIs_of_fails h) drain cut) h offers rfl⟩,
    fun h => request_failed (handle := handleReadPlan) h offers rfl,
    fun h => request_failed (handle := handleWritePlan) h offers rfl,
    fun none one => readTimeline_failed none one offers,
    fun h => request_failed (handle := handleReadTimebase) h offers rfl,
    fun h => request_failed (handle := handleWriteTimebase) h offers rfl,
    fun h => request_failed (handle := handleReadPort) h offers rfl,
    fun h => request_failed (handle := handleSnapshot) h offers rfl,
    fun h => request_failed (handle := handleFlush) h offers rfl,
    fun h => request_failed (handle := handleResetWarm) h offers rfl,
    fun h => request_failed (handle := handleResetCold) h offers rfl,
    fun lost => ⟨?_, ?_, ?_, ?_, ?_, ?_, ?_, ?_⟩, fun lost => ⟨?_, ?_, ?_, ?_, ?_, ?_, ?_, ?_⟩, fun lost h => ?port⟩
  case port =>
    refine (request_carried (handle := handleReadPort) h offers rfl).trans ?_
    rw [portBytes_of_none lost]
  · exact fun h => request_noStation (handle := handleReadStation) h lost offers rfl
  · exact fun h => request_noStation (handle := handleWriteStation) h lost offers rfl
  · exact fun h => request_noStation (handle := handleExchangeStation) h lost offers rfl
  · exact fun h => request_noStation (handle := handleEnableStation) h lost offers rfl
  · exact fun h => request_noStation (handle := handleDisableStation) h lost offers rfl
  · exact fun h => request_noStation (handle := handleAdmitStation) h lost offers rfl
  · exact fun h => request_noStation (handle := handleAcceptShape) h lost offers rfl
  · exact fun h => request_noStation (handle := handleReadCounters) h lost offers rfl
  · exact fun h => request_noStream (handle := handleReadStream) h lost offers rfl
  · exact fun h => request_noStream (handle := handleWriteStream) h lost offers rfl
  · exact fun h => request_noStream (handle := handleStartStream) h lost offers rfl
  · exact fun h mode => row_noStream (handle := handleStopDrain) (isStopDrain_of_mode (requestIs_of_carries h) mode) h lost
      offers rfl
  · exact fun h mode => row_noStream (handle := handleStopCut) (isStopCut_of_mode (requestIs_of_carries h) mode) h lost
      offers rfl
  · exact fun h drain cut => row_noStream (handle := handleStopBadMode)
      (isStopBadMode_of_mode (requestIs_of_carries h) drain cut) h lost offers rfl
  · exact fun h => request_noStream (handle := handleReadPlan) h lost offers rfl
  · exact fun h => request_noStream (handle := handleWritePlan) h lost offers rfl

/-! ## STOP_STREAM -/

/-- Two commands that choose over the same state answer the same. -/
theorem next_finish {s t : State} (h : s = t) : (.next (finish s) : Answered) = .next (finish t) := by rw [h]

theorem stopDetail_none {r : Request} (wait : r.wait = 0) (cause : StreamCause) : stopDetail r cause = [] :=
  if_neg (by omega)

theorem stopDetail_some {r : Request} (wait : r.wait = 1) (cause : StreamCause) : stopDetail r cause = be8 cause.detail :=
  if_pos wait

theorem stopStopped_of_none {r : Request} {s : State} (wait : r.wait = 0) : stopStopped r s = answerRequest r .ok [] s := by
  rw [stopStopped, withSlot_of_none wait, stopDetail_none wait]

theorem stopStopped_of_free {r : Request} {s : State} (wait : r.wait = 1) (free : freeSlot s ≠ none) :
    stopStopped r s = answerRequest r .ok [0x00] s := by
  obtain ⟨d, found⟩ := Option.ne_none_iff_exists'.1 free
  rw [stopStopped, withSlot_of_free wait found, stopDetail_some wait]
  rfl

theorem stopStopped_of_full {r : Request} {s : State} (wait : r.wait = 1) (full : freeSlot s = none) :
    stopStopped r s = refuse r .busy s := withSlot_of_full wait full

section
variable {gap : Nat} {r : Request} {s : State} {k : StreamNo} (carries : requestCarries r 16 1) (target : r.target = k.val)
  (offers : s.offers r)
include carries target offers

theorem exec_stopDrain_stopped (mode : stopMode r = some 0) (state : (s.stream k).run.state = .stopped) :
    exec (.stopStreamDrain gap r) s = .next (finish (stopStopped r (s.taken gap))) :=
  (row_stream (handle := handleStopDrain) (isStopDrain_of_mode (requestIs_of_carries carries) mode) carries target offers
    rfl).trans (next_finish (by rw [State.taken_stream, state]))

theorem exec_stopDrain_draining (mode : stopMode r = some 0) (state : (s.stream k).run.state = .draining) :
    exec (.stopStreamDrain gap r) s = .next (finish (refuse r .busy (s.taken gap))) :=
  (row_stream (handle := handleStopDrain) (isStopDrain_of_mode (requestIs_of_carries carries) mode) carries target offers
    rfl).trans (next_finish (by rw [State.taken_stream, state]))

theorem exec_stopDrain_running (mode : stopMode r = some 0) (state : (s.stream k).run.state = .running) :
    exec (.stopStreamDrain gap r) s = .next (finish (withSlot r (fun d s =>
      if hasWaiting s k then beginDrain k r d s
      else answerRequest r .ok (stopDetail r .drained) (stopStream k .drained s)) (s.taken gap))) :=
  (row_stream (handle := handleStopDrain) (isStopDrain_of_mode (requestIs_of_carries carries) mode) carries target offers
    rfl).trans (next_finish (by rw [State.taken_stream, state]))

theorem exec_stopCut_stopped (mode : stopMode r = some 1) (state : (s.stream k).run.state = .stopped) :
    exec (.stopStreamCut gap r) s = .next (finish (stopStopped r (s.taken gap))) :=
  (row_stream (handle := handleStopCut) (isStopCut_of_mode (requestIs_of_carries carries) mode) carries target offers
    rfl).trans (next_finish (if_pos state))

theorem exec_stopCut_live (mode : stopMode r = some 1) (state : (s.stream k).run.state ≠ .stopped) :
    exec (.stopStreamCut gap r) s = .next (finish (withSlot r (fun _ s =>
      answerRequest r .ok (stopDetail r .cut) (cutStream k s)) (s.taken gap))) :=
  (row_stream (handle := handleStopCut) (isStopCut_of_mode (requestIs_of_carries carries) mode) carries target offers
    rfl).trans (next_finish (if_neg state))

end

/-- Settles O38, by the state of the stream, the mode and the WAIT flag. -/
theorem stopStreamWithNothingToStop : Obligations.StopStreamWithNothingToStop := by
  refine ⟨fun _ => rfl, fun gap r s k carries target offers => ⟨fun stopped => ?_, fun draining mode =>
    exec_stopDrain_draining carries target offers mode draining, fun drain cut => ?_⟩⟩
  case refine_2 =>
    exact (row_stream (handle := handleStopBadMode) (isStopBadMode_of_mode (requestIs_of_carries carries) drain cut) carries
      target offers rfl).trans (next_finish rfl)
  have byDrain (mode : stopMode r = some 0) := exec_stopDrain_stopped (gap := gap) carries target offers mode stopped
  have byCut (mode : stopMode r = some 1) := exec_stopCut_stopped (gap := gap) carries target offers mode stopped
  refine ⟨fun wait => ?_, fun wait free => ?_, fun wait full => ?_⟩
  · rw [stopStopped_of_none wait] at byDrain byCut
    exact ⟨byDrain, byCut⟩
  · rw [stopStopped_of_free (s := s.taken gap) wait free] at byDrain byCut
    exact ⟨byDrain, byCut⟩
  · rw [stopStopped_of_full (s := s.taken gap) wait full] at byDrain byCut
    exact ⟨byDrain, byCut⟩

theorem stopStream_of_none {k : StreamNo} {cause : StreamCause} {s : State} (none : (s.stream k).run.pendingStop = none) :
    stopStream k cause s = pushNotice (.streamState k (s.stream k).run.state .stopped cause)
      (s.setStreamRun k { (s.stream k).run with state := .stopped, pendingStop := .none }) := by
  rw [stopStream, none]

/-- Without a pending stop, the entry to STOPPED changes the state and pushes the notice. -/
theorem stopStream_unheld {k : StreamNo} {cause : StreamCause} {s : State} (none : (s.stream k).run.pendingStop = none) :
    stopStream k cause s = pushNotice (.streamState k (s.stream k).run.state .stopped cause)
      (s.setStreamRun k { (s.stream k).run with state := .stopped }) := by
  rw [stopStream_of_none none, ← none]

/-- Settles O37, by the WAIT flag, the free slot and the waiting windows of a RUNNING stream. -/
theorem stopStreamDrainWaitsForItsWindows : Obligations.StopStreamDrainWaitsForItsWindows := by
  intro gap r s k carries mode target offers running u x draining
  have taken := exec_stopDrain_running (gap := gap) carries target offers mode running
  refine ⟨fun wait some => ?_, fun wait none unheld => ?_, fun wait full => ?_, fun d wait free some => ?_,
    fun d wait free none unheld => ?_⟩
  · rw [taken, withSlot_of_none wait, hasWaiting_taken, if_pos some, beginDrain, State.taken_stream, running]
  · rw [taken, withSlot_of_none wait, hasWaiting_taken, none, if_neg Bool.false_ne_true,
      stopStream_unheld (s := s.taken gap) unheld, stopDetail_none wait,
      State.taken_stream, running]
  · rw [taken, withSlot_of_full (s := s.taken gap) wait full]
  · rw [taken, withSlot_of_free (s := s.taken gap) wait free, hasWaiting_taken, if_pos some, beginDrain]
    simp [holdAnswer, Config.completionLimit, draining, u, x, running]
  · rw [taken, withSlot_of_free (s := s.taken gap) wait free, hasWaiting_taken, none, if_neg Bool.false_ne_true,
      stopStream_unheld (s := s.taken gap) unheld, stopDetail_some wait,
      State.taken_stream, running]
    rfl

end Sys2Proof.Machine
end

section
/-! PROOFS. Latches and counters (O29) and CLEAR_CONDITIONS (O28). -/

namespace Sys2Proof.Machine

/-! ## Latches -/

section
variable {n : StationNo} {c : Condition} {s : State}

theorem risingEdge_disabled (h : (s.station n).config.enables.get c = false) : risingEdge n c s = s := by
  rw [risingEdge, h]
  rfl

theorem risingEdge_absorbed (h : ((s.station n).run.latches.get c).set = true) : risingEdge n c s = s := by
  unfold risingEdge latchOf
  rw [if_pos h, ite_self]

theorem risingEdge_sets (enabled : (s.station n).config.enables.get c = true)
    (clear : ((s.station n).run.latches.get c).set = false) : risingEdge n c s = setLatch n c .edge s := by
  unfold risingEdge latchOf
  rw [enabled, clear]
  rfl

theorem put_put {α : Type} (p : PerCondition α) (c : Condition) (x y : α) : (p.put c x).put c y = p.put c y := by
  cases c <;> rfl

theorem get_put {α : Type} (p : PerCondition α) (c : Condition) (x : α) : (p.put c x).get c = x := by
  cases c <;> rfl

/-- Only SILENT and SUSPECT_TIME have a persistent cause (R152). -/
theorem persistentCause_iff (x : Station) (c : Condition) : persistentCause x c = true ↔
    c = .silent ∧ x.run.state = .silent ∨ c = .suspectTime ∧ x.run.suspect = true ∧ x.run.state ≠ .disabled := by
  cases c <;> simp [persistentCause]

/-- A latch that is cleared and set again is set, with the origin of the clearing. -/
theorem clearLatch_persistent (h : (s.station n).config.enables.get c = true ∧ persistentCause (s.station n) c = true) :
    clearLatch n c s = setLatch n c .clear s := by
  have again : persistentCause ((putLatch n c .clear s).station n) c = true := by
    rw [putLatch, State.station_setRun_same]
    cases c <;> exact h.2
  have enabled : ((putLatch n c .clear s).station n).config.enables.get c = true := by
    rw [putLatch, State.station_setRun_same]
    exact h.1
  unfold clearLatch
  dsimp only
  rw [enabled, again]
  simp [setLatch, putLatch, nextPending, put_put]
  rfl

theorem clearLatch_clears (h : ¬((s.station n).config.enables.get c = true ∧ persistentCause (s.station n) c = true)) :
    clearLatch n c s = putLatch n c .clear s := by
  have same : ((putLatch n c .clear s).station n).config = (s.station n).config ∧
      persistentCause ((putLatch n c .clear s).station n) c = persistentCause (s.station n) c := by
    rw [putLatch, State.station_setRun_same]
    exact ⟨rfl, by cases c <;> rfl⟩
  unfold clearLatch
  dsimp only
  rw [same.1, same.2, if_neg (by simpa using h)]

end

/-- Settles O29, by the cases of a rising edge, of a clearing and of a count. -/
theorem latchesRiseAndClearAndCountersSaturate : Obligations.LatchesRiseAndClearAndCountersSaturate := by
  refine ⟨fun n c s => ⟨risingEdge_disabled, risingEdge_absorbed, risingEdge_sets, fun h => ?_, fun h => ?_⟩,
    fun n c s => ⟨fun full => ?_, fun room differs => ?_, fun room reached => ?_⟩, fun c => rfl⟩
  · rw [← persistentCause_iff] at h
    exact clearLatch_persistent h
  · rw [← persistentCause_iff] at h
    exact clearLatch_clears h
  · exact if_neg (Nat.not_lt.2 full)
  · exact (if_pos room).trans (if_neg differs)
  · exact (if_pos room).trans (if_pos reached)

/-! ## CLEAR_CONDITIONS -/

section
variable {r : Request} {s : State} (carries : requestCarries r 12 2)
include carries

theorem clearConditions_station {n : StationNo} (target : r.target = n.val) (subject : byteAt (r.delivered.take 2) 0 = 1) :
    handleClearConditions r s = if byteAt (r.delivered.take 2) 1 < 32
      then answerRequest r .ok [] (clearStation n (byteAt (r.delivered.take 2) 1) s) else refuse r .badRequest s := by
  rw [handleClearConditions, withPayload_of_carries carries]
  exact (if_pos subject).trans (withStation_of_target target _ _)

theorem clearConditions_line {l : LineId} (target : r.target = l.val) (subject : byteAt (r.delivered.take 2) 0 = 2) :
    handleClearConditions r s = if byteAt (r.delivered.take 2) 1 = 0 then answerRequest r .ok [] s
      else if byteAt (r.delivered.take 2) 1 = 32 then answerRequest r .ok [] (clearUnknownCode l s)
      else refuse r .badRequest s := by
  have known : r.target < 4 := by omega
  have line : (⟨r.target, known⟩ : LineId) = l := Fin.ext target
  rw [handleClearConditions, withPayload_of_carries carries]
  refine (if_neg (by omega)).trans ((if_pos subject).trans ((dif_pos known).trans ?_))
  rw [line]

theorem clearConditions_lost (lost : byteAt (r.delivered.take 2) 0 ≠ 1 ∧ byteAt (r.delivered.take 2) 0 ≠ 2 ∨
    byteAt (r.delivered.take 2) 0 = 1 ∧ 1024 ≤ r.target ∨ byteAt (r.delivered.take 2) 0 = 2 ∧ 4 ≤ r.target) :
    handleClearConditions r s = refuse r .badTarget s := by
  rw [handleClearConditions, withPayload_of_carries carries]
  rcases lost with ⟨one, two⟩ | ⟨one, large⟩ | ⟨two, large⟩
  · exact (if_neg one).trans (if_neg two)
  · exact (if_pos one).trans (withStation_of_none large _ _)
  · exact (if_neg (by omega)).trans ((if_pos two).trans (dif_neg (Nat.not_lt.2 large)))

end

/-- The latches of a station are cleared in the order of Table 8-1. -/
theorem clearStation_eq (n : StationNo) (mask : Nat) (s : State) : clearStation n mask s =
    ([.late, .offGrid, .short, .silent, .suspectTime] : List Condition).foldl
      (fun s c => if mask / 2 ^ c.code % 2 = 1 then clearLatch n c s else s) s := by
  simp only [clearStation, maskHas, beq_iff_eq]

/-- Settles O28, by the subject, the target and the mask. -/
theorem clearConditionsClearsTheNamedLatches : Obligations.ClearConditionsClearsTheNamedLatches := by
  intro gap r s carries offers u subject mask
  have taken : exec (.clearConditions gap r) s = .next (finish (handleClearConditions r u)) :=
    request_offered offers (requestIs_of_carries carries) handleClearConditions gap
  rw [taken]
  refine ⟨fun n target h small => ?_, fun n target h large => ?_, fun l target h m => ?_, fun l target h m => ?_,
    fun l target h m0 m32 => ?_, fun h => ?_⟩
  · rw [clearConditions_station carries target h, ← clearStation_eq]
    exact next_finish (if_pos small)
  · rw [clearConditions_station carries target h]
    exact next_finish (if_neg (Nat.not_lt.2 large))
  · rw [clearConditions_line carries target h]
    exact next_finish ((if_neg (by omega)).trans (if_pos m))
  · rw [clearConditions_line carries target h]
    exact next_finish (if_pos m)
  · rw [clearConditions_line carries target h]
    exact next_finish ((if_neg m0).trans (if_neg m32))
  · rw [clearConditions_lost carries h]

end Sys2Proof.Machine
end

section
/-! PROOFS. The station machine: acquisition (O18), good reports (O19), shape changes (O20) and the expiries (O21). -/

namespace Sys2Proof.Machine

/-! ## Transitions -/

section
variable {n : StationNo} {new : StationState} {cause : StationCause} {result : Result}

/-- A transition that completes no deferral (R52). -/
theorem moveStation_plain (h : deferralOutcome new cause = none) (run : StationRun) (s : State) :
    moveStation n new cause run s =
      pushNotice (.stationState n (s.station n).run.state new cause) (s.setRun n { run with state := new }) := by
  rw [moveStation, h]

/-- A transition that completes the station's deferrals (R61). -/
theorem moveStation_completes (h : deferralOutcome new cause = some result) (run : StationRun) (s : State) :
    moveStation n new cause run s = completeDeferrals n result
      (pushNotice (.stationState n (s.station n).run.state new cause) (s.setRun n { run with state := new })) := by
  rw [moveStation, h]

end

theorem deferralOutcome_acquired (hold : Bool) :
    deferralOutcome (if hold then .held else .admitted) .acquired = some .ok := by
  cases hold <;> rfl

theorem testAcquired_waits {n : StationNo} {s : State} (h : (s.station n).run.goodCount < (s.station n).config.acquire) :
    testAcquired n s = s := if_neg (Nat.not_le.2 h)

theorem testAcquired_completes {n : StationNo} {s : State} (h : (s.station n).config.acquire ≤ (s.station n).run.goodCount) :
    testAcquired n s = completeDeferrals n .ok (pushNotice
      (.stationState n (s.station n).run.state (if (s.station n).config.hold then .held else .admitted) .acquired)
      (s.setRun n { (s.station n).run with
        state := if (s.station n).config.hold then .held else .admitted
        acqTimer := none, silenceTimer := some (1000000000 * (s.station n).config.silence + s.elapsed) })) :=
  (if_pos h).trans (moveStation_completes (deferralOutcome_acquired _) _ _)

/-! ## The good count (R44) -/

/-- The good count after a good report in ACQUIRING. -/
def countAfter (r : StationRun) (t : GridTime) (suspect : Bool) : Nat :=
  if suspect then 0 else if isFresh r.lastFresh t then r.goodCount + 1 else 1

/-- The last fresh instant after a good report. -/
def lastAfter (r : StationRun) (t : GridTime) (suspect : Bool) : Option GridTime := if suspect then r.lastFresh else some t

theorem counted_eq (r : StationRun) (t : GridTime) (suspect : Bool) :
    r.counted t suspect = { r with goodCount := countAfter r t suspect, lastFresh := lastAfter r t suspect } := by
  unfold StationRun.counted countAfter lastAfter
  split
  · rfl
  · split <;> rfl

theorem countGood_waits {n : StationNo} {t : GridTime} {suspect : Bool} {s : State}
    (h : countAfter (s.station n).run t suspect < (s.station n).config.acquire) : countGood n t suspect s =
      s.setRun n { (s.station n).run with
        goodCount := countAfter (s.station n).run t suspect, lastFresh := lastAfter (s.station n).run t suspect } := by
  rw [countGood, counted_eq, testAcquired_waits]
  rw [State.station_setRun_same]
  exact h

theorem countGood_completes {n : StationNo} {t : GridTime} {suspect : Bool} {s : State}
    (h : (s.station n).config.acquire ≤ countAfter (s.station n).run t suspect) : countGood n t suspect s =
      completeDeferrals n .ok (pushNotice (.stationState n (s.station n).run.state
        (if (s.station n).config.hold then .held else .admitted) .acquired) (s.setRun n { (s.station n).run with
          state := if (s.station n).config.hold then .held else .admitted
          goodCount := countAfter (s.station n).run t suspect, lastFresh := lastAfter (s.station n).run t suspect
          acqTimer := none, silenceTimer := some (1000000000 * (s.station n).config.silence + s.elapsed) })) := by
  rw [countGood, counted_eq, testAcquired_completes]
  · rw [State.station_setRun_same, State.setRun_setRun, State.setRun_elapsed]
  · rw [State.station_setRun_same]
    exact h

theorem endSlot_of_free {d : SlotNo} {s : State} (free : s.slot d = none) (result : Result) (payload : List Byte) :
    endSlot d result payload s = s := by
  rw [endSlot, free]

theorem endSlot_stream_held {d : SlotNo} {k : StreamNo} {h : HeldAnswer} {s : State} (held : s.slot d = some h)
    (op : h.op = .stream k) (result : Result) (payload : List Byte) : endSlot d result payload s =
      ((placeAnswer h.link ⟨h.source, h.tag, h.kind, h.target, result, payload⟩ s).setSlot d none).setStreamRun k
        { (s.stream k).run with pendingStop := none } := by
  simp [endSlot, held, op, forgetSlot]

/-- Settles O18, by whether the good count reaches the acquire count. -/
theorem acquisitionCountsFreshReports : Obligations.AcquisitionCountsFreshReports := by
  refine ⟨fun n t suspect s acquiring => ?_, fun n result s => rfl, fun d result payload s =>
    ⟨fun free => endSlot_of_free free result payload, fun h held => ⟨fun n op => endSlot_station_held held op result payload,
      fun k op => endSlot_stream_held held op result payload⟩⟩, fun n result s held => completeDeferrals_held n result s held⟩
  have advance : advanceStation n t suspect s = countGood n t suspect s := by rw [advanceStation, acquiring]
  rw [advance]
  refine ⟨fun h => countGood_waits h, fun h => (countGood_completes h).trans ?_⟩
  rw [acquiring]
  rfl

/-! ## Good reports (R43, R47-R50, R55) -/

/-- An acquisition that begins and does not complete (R43, R50). -/
theorem beginAcquiring_eq (n : StationNo) (cause : StationCause) (t : GridTime) (suspect : Bool) (s : State)
    (h : deferralOutcome .acquiring cause = none) : beginAcquiring n cause t suspect s = testAcquired n
      (pushNotice (.stationState n (s.station n).run.state .acquiring cause) (s.setRun n { (s.station n).run with
        state := .acquiring, silenceTimer := none, acqTimer := acqStart s n
        goodCount := if suspect then 0 else 1, lastFresh := if suspect then (s.station n).run.lastFresh else some t })) := by
  rw [beginAcquiring, moveStation_plain h]

/-- Settles O19, by the station's state. -/
theorem goodReportKeepsTheStationAlive : Obligations.GoodReportKeepsTheStationAlive := by
  intro n t suspect s c r silence acquisition count last next begun acquired
  have acq : acquisition = acqStart s n := rfl
  have begin_ (cause : StationCause) (h : deferralOutcome .acquiring cause = none) :
      (count < c.acquire → beginAcquiring n cause t suspect s = begun cause) ∧
      (c.acquire ≤ count → beginAcquiring n cause t suspect s = acquired cause) := by
    rw [beginAcquiring_eq n cause t suspect s h]
    refine ⟨fun low => testAcquired_waits ?_, fun reached => (testAcquired_completes ?_).trans ?_⟩
    · rw [pushNotice_station, State.station_setRun_same]
      exact low
    · rw [pushNotice_station, State.station_setRun_same]
      exact reached
    · rw [pushNotice_station, State.station_setRun_same, pushNotice_elapsed, State.setRun_elapsed]
      rfl
  refine ⟨fun state => ?_, fun silent off => ?_, fun silent on => ?_, fun awaiting => ?_, fun shaped => ?_⟩
  · have advance : advanceStation n t suspect s = restartSilence n s := by
      rcases state with held | admitted
      · rw [advanceStation, held]
      · rw [advanceStation, admitted]
    rw [advance]
    rfl
  · have advance : advanceStation n t suspect s = moveStation n .admitted .resumed
        { (s.station n).run with silenceTimer := silenceStart s n } s := by
      rw [advanceStation, silent]
      exact if_neg (Bool.eq_false_iff.1 off)
    rw [advance, moveStation_completes (result := .ok) rfl, silent]
    rfl
  · have advance : advanceStation n t suspect s = beginAcquiring n .reacquire t suspect s := by
      rw [advanceStation, silent]
      exact if_pos on
    rw [advance]
    exact begin_ .reacquire rfl
  · have advance : advanceStation n t suspect s = beginAcquiring n .firstReport t suspect s := by
      rw [advanceStation, awaiting]
    rw [advance]
    exact begin_ .firstReport rfl
  · have advance : advanceStation n t suspect s = revertShape n t suspect s := by
      rcases shaped with pending | held
      · rw [advanceStation, pending]
      · rw [advanceStation, held]
    refine ⟨if Config.revertKeepsReturnState then r.returnState else none, ?_, fun back => ?_, fun back => ?_, fun back => ?_⟩
    · split
      · exact .inl rfl
      · exact .inr rfl
    · rw [advance, revertShape, back, moveStation_plain rfl, advanceStation, pushNotice_station, State.station_setRun_same]
      rfl
    · rw [advance, revertShape, back, moveStation_completes (new := .held) (result := .ok) rfl]
      rfl
    · rw [advance, revertShape, back, moveStation_completes (new := .admitted) (result := .ok) rfl]
      rfl

/-! ## Shape changes (R53-R57) -/

theorem beginPending_eq (n : StationNo) (back : ReturnState) (x : Shape) (s : State) : beginPending n back x s =
    pushNotice (.stationState n (s.station n).run.state .shapePending .shapeChange) (s.setRun n { (s.station n).run with
      state := .shapePending, returnState := some back, pendingShape := some x, confirmations := 1, acqTimer := none
      silenceTimer := silenceStart s n }) := moveStation_plain rfl _ _

/-- The descriptor takes the shape, and the acquisition starts afresh (R57). -/
theorem acquireShape_eq (n : StationNo) (cause : StationCause) (x : Shape) (s : State)
    (h : deferralOutcome .acquiring cause = none) : acquireShape n cause x s =
      pushNotice (.stationState n (s.station n).run.state .acquiring cause)
        (s.setStation n ⟨{ (s.station n).config with shape := x }, { (s.station n).run.restarted with
          state := .acquiring, acqTimer := acqStart s n }⟩) := by
  rw [acquireShape, moveStation_plain h, adoptShape, State.station_setConfig_same, State.setRun, State.station_setConfig_same,
    State.setConfig, State.setStation_setStation]

/-- A report of the pending shape, short of the third (R54). -/
theorem confirmShape_again {n : StationNo} {x : Shape} {s : State} (same : (s.station n).run.pendingShape = some x)
    (few : (s.station n).run.confirmations + 1 < 3) : confirmShape n x s = s.setRun n { (s.station n).run with
      confirmations := (s.station n).run.confirmations + 1, silenceTimer := silenceStart s n } :=
  (if_pos same).trans (if_pos few)

/-- The third report of the pending shape (R54). -/
theorem confirmShape_third {n : StationNo} {x : Shape} {s : State} (same : (s.station n).run.pendingShape = some x)
    (two : (s.station n).run.confirmations = 2) : confirmShape n x s =
      if (s.station n).config.shapeAuto then acquireShape n .shapeAdopted x s
      else moveStation n .shapeHeld .shapeConfirmed { (s.station n).run with
        confirmations := (s.station n).run.confirmations + 1, silenceTimer := silenceStart s n } s :=
  (if_pos same).trans (if_neg (by dsimp only; omega))

section
variable {l : LineId} {f : QueuedFrame} {s : State} {p : ParsedReport} {n : StationNo}

theorem takeReport_malformed (h : parseReport f.bytes = none) : takeReport l f s = s := by
  rw [takeReport, h]

theorem takeReport_unknown (parsed : parseReport f.bytes = some p) (h : codeLookup s.codeMap p.code = none) :
    takeReport l f s = unknownCodeEdge l p.code s := by
  simp only [takeReport, parsed, h]

theorem takeReport_known (parsed : parseReport f.bytes = some p) (found : codeLookup s.codeMap p.code = some n) :
    takeReport l f s = takeKnown n p f.arrival s := by
  simp only [takeReport, parsed, found]

theorem takeKnown_otherShape {arrival : GridTime} (h : p.shape ≠ (s.station n).config.shape) :
    takeKnown n p arrival s = takeShapeChange n p.shape s := if_pos h

end

/-- Settles O20, by the station's state and its pending shape. -/
theorem shapeChangesArePendedAndConfirmed : Obligations.ShapeChangesArePendedAndConfirmed := by
  refine ⟨fun n x s => ?_, fun l f s p n parsed found other => (takeReport_known parsed found).trans
    (takeKnown_otherShape other)⟩
  intro c r silence pend
  have confirm (pending : r.state = .shapePending) : takeShapeChange n x s = confirmShape n x s := by
    rw [takeShapeChange, pending]
  have hold (held : r.state = .shapeHeld) : takeShapeChange n x s = heldShape n x s := by
    rw [takeShapeChange, held]
  refine ⟨fun acquiring => ?_, fun held => ?_, fun admitted => ?_, fun idle => ?_, fun pending other => ?_,
    fun pending same few => ?_, fun pending same two manual => ?_, fun pending same two auto => ?_, fun held same => ?_,
    fun held other => ?_⟩
  · rw [takeShapeChange, acquiring]
    exact beginPending_eq n _ x s
  · rw [takeShapeChange, held]
    exact beginPending_eq n _ x s
  · rw [takeShapeChange, admitted]
    exact congrArg (leaveAwaited n) (beginPending_eq n _ x s)
  · rcases idle with awaiting | silent
    · rw [takeShapeChange, awaiting]
    · rw [takeShapeChange, silent]
  · rw [confirm pending]
    exact if_neg other
  · rw [confirm pending]
    exact confirmShape_again same few
  · rw [confirm pending, confirmShape_third same two, if_neg (Bool.eq_false_iff.1 manual), moveStation_plain rfl, two, pending]
    rfl
  · rw [confirm pending, confirmShape_third same two, if_pos auto, acquireShape_eq _ _ _ _ rfl, pending]
    rfl
  · rw [hold held]
    exact if_pos same
  · rw [hold held, heldShape, if_neg other, moveStation_plain rfl, held]
    rfl

/-! ## Expiries (R46, R49, R51, R59) -/

theorem setRemove_eq (n : StationNo) (l : List StationNo) : setRemove n l = l.filter (· ≠ n) := by
  rw [setRemove]
  congr 1
  funext m
  by_cases h : m = n <;> simp [h]

theorem dropAwaited_eq (closeOnComplete : Bool) (n : StationNo) (w : Window) : dropAwaited closeOnComplete n w =
    ⟨if w.state = .opened ∧ n ∈ w.awaited ∧ w.awaited.filter (· ≠ n) = [] ∧ closeOnComplete = true then .ready .complete
      else w.state, w.awaited.filter (· ≠ n), w.deadline, w.late⟩ := by
  rw [dropAwaited, setRemove_eq]

theorem toAwaiting_eq (n : StationNo) (cause : StationCause) (s : State) (h : deferralOutcome .awaiting cause = none) :
    toAwaiting n cause s = pushNotice (.stationState n (s.station n).run.state .awaiting cause)
      (s.setRun n { (s.station n).run.restarted with state := .awaiting }) := moveStation_plain h _ _

/-- Settles O21, by the timer that expires and the station's state. -/
theorem stationTimersAndTheLatencyPeriodExpire : Obligations.StationTimersAndTheLatencyPeriodExpire := by
  refine ⟨fun n s e timer => ?silence, fun s => ⟨fun n e timer acquiring => ?acquisition, ?latency⟩, fun n s => ?leave⟩
  case silence =>
    intro u r
    have ends : silenceTimerEnd n s = silenceExpired n u := by rw [silenceTimerEnd, timer]; rfl
    refine ⟨fun admitted => next_finish (ends.trans ?_), fun state => next_finish (ends.trans ?_)⟩
    · have admitted : (u.station n).run.state = .admitted := admitted
      rw [silenceExpired, admitted]
      refine congrArg (fun v => leaveAwaited n (risingEdge n .silent v)) ((moveStation_plain rfl _ _).trans ?_)
      rw [admitted]
      rfl
    · have away : silenceExpired n u = toAwaiting n .silence u := by
        rcases state with held | pending | held
        · rw [silenceExpired, show (u.station n).run.state = _ from held]
        · rw [silenceExpired, show (u.station n).run.state = _ from pending]
        · rw [silenceExpired, show (u.station n).run.state = _ from held]
      rw [away, toAwaiting_eq _ _ _ rfl]
      rfl
  case acquisition =>
    have ends : acquisitionTimer n s = toAwaiting n .acquireFailed (s.runClock (e - s.elapsed)) := by
      rw [acquisitionTimer, timer]
      exact if_pos acquiring
    refine next_finish (ends.trans ((moveStation_completes (result := .failed) rfl _ _).trans ?_))
    rw [State.station_runClock, acquiring]
    rfl
  case latency =>
    refine ⟨latencyPeriodOver s, rfl, rfl, fun n => ?_⟩
    exact getElem_mapVec_fin Station.rolled s.stations n
  case leave =>
    refine ⟨_, rfl, rfl, List.length_map _, fun i h h' => ?_⟩
    rw [List.getElem_map]
    refine ⟨rfl, rfl, rfl, fun k => ?_⟩
    rw [mapWindows_get, dropAwaited_eq]

end Sys2Proof.Machine
end

section
/-! PROOFS. The station requests ENABLE_STATION (O22), DISABLE_STATION (O23), ADMIT_STATION and ACCEPT_SHAPE (O24). -/

namespace Sys2Proof.Machine

/-! ## Free slots -/

theorem mem_allSlots (d : SlotNo) : d ∈ allSlots := by fin_cases d <;> decide

theorem freeSlot_eq_none (s : State) : freeSlot s = none ↔ ∀ e, s.slot e ≠ none := by
  simp [freeSlot, List.find?_eq_none, mem_allSlots]

/-- The first number that a predicate holds of. -/
theorem find?_finRange_eq_some {n : Nat} {p : Fin n → Bool} {i : Fin n} :
    (List.finRange n).find? p = some i ↔ p i = true ∧ ∀ j < i, p j = false := by
  rw [List.find?_eq_some_iff_getElem]
  refine and_congr_right fun _ => ⟨?_, fun lower => ⟨i, by simp, by simp, fun j below => ?_⟩⟩
  · rintro ⟨m, inside, rfl, lower⟩ j below
    simpa using lower j (by simpa [Fin.lt_def] using below)
  · simpa using lower ⟨j, by omega⟩ (by simpa [Fin.lt_def] using below)

/-- The free slot that a request takes is the lowest one. -/
theorem freeSlot_eq_some (s : State) (d : SlotNo) :
    freeSlot s = some d ↔ s.slot d = none ∧ ∀ e < d, s.slot e ≠ none := by
  have slots : allSlots = List.finRange 4 := by decide
  rw [freeSlot, slots, find?_finRange_eq_some, Option.isNone_iff_eq_none]
  simp only [Option.isNone_eq_false_iff, Option.isSome_iff_ne_none]

/-! ## ENABLE_STATION -/

/-- An answer that is held: the slot holds the request's fields and joins the station's deferrals (R61, R188). -/
theorem answerOrHold_some (n : StationNo) (r : Request) (d : SlotNo) (s : State) : answerOrHold n r (some d) s =
    (s.setSlot d (some ⟨r.tag, r.kind, r.target, r.link, r.source, .station n, 10000000000 + s.elapsed⟩)).setRun n
      { (s.station n).run with deferrals := (s.station n).run.deferrals ++ [d] } := rfl

section
variable {gap : Nat} {r : Request} {s : State} {n : StationNo} (carries : requestCarries r 7 0) (target : r.target = n.val)
  (offers : s.offers r)
include carries target offers

theorem enableStation_refused (h : (s.station n).run.state ≠ .disabled ∨ (s.station n).config.code = 0) :
    exec (.enableStation gap r) s = .next (finish (refuse r .refusedState (s.taken gap))) :=
  (request_station (handle := handleEnableStation) carries target offers rfl).trans (next_finish (if_pos h))

theorem enableStation_inUse (out : (s.station n).run.state = .disabled) (code : (s.station n).config.code ≠ 0)
    (held : (codeLookup s.codeMap (s.station n).config.code).isSome = true) :
    exec (.enableStation gap r) s = .next (finish (refuse r .codeInUse (s.taken gap))) :=
  (request_station (handle := handleEnableStation) carries target offers rfl).trans
    (next_finish ((if_neg (fun h => h.elim (· out) code)).trans (if_pos held)))

theorem enableStation_accepted (out : (s.station n).run.state = .disabled) (code : (s.station n).config.code ≠ 0)
    (free : codeLookup s.codeMap (s.station n).config.code = none) :
    exec (.enableStation gap r) s = .next (finish (withSlot r (fun d s => answerOrHold n r d
      (pushNotice (.stationState n .disabled .awaiting .enable)
        { s.setStation n ⟨{ (s.station n).config with enable := true }, .cleared .awaiting⟩ with
          codeMap := codeInsert (s.station n).config.code n s.codeMap })) (s.taken gap))) := by
  refine (request_station (handle := handleEnableStation) carries target offers rfl).trans
    (next_finish ((if_neg (fun h => h.elim (· out) code)).trans ((if_neg ?_).trans ?_)))
  · rw [State.taken_codeMap, State.taken_station, free]
    decide
  · unfold withSlot
    split
    · split <;> rfl
    · rfl

end

/-- Settles O22, by the state of the station, its code and the WAIT flag. -/
theorem enableStationStartsAwaiting : Obligations.EnableStationStartsAwaiting := by
  refine ⟨fun gap r s n carries target offers => ?_, fun s d => ⟨freeSlot_eq_none s, freeSlot_eq_some s d⟩,
    fun m code other n => ?_⟩
  case refine_2 =>
    rw [codeLookup_codeInsert]
    exact if_congr eq_comm rfl rfl
  refine ⟨enableStation_refused carries target offers, enableStation_inUse carries target offers, fun out code free => ?_⟩
  have accepted := enableStation_accepted (gap := gap) carries target offers out code free
  refine ⟨fun wait => ?_, fun wait full => ?_, fun d wait slot => ?_⟩
  · rw [accepted, withSlot_of_none wait]
    rfl
  · rw [accepted, withSlot_of_full (s := s.taken gap) wait full]
  · rw [accepted, withSlot_of_free (s := s.taken gap) wait slot, answerOrHold_some, pushNotice_station,
      pushNotice_elapsed]
    have here : State.station { (s.taken gap).setStation n ⟨{ (s.station n).config with enable := true }, .cleared .awaiting⟩
        with codeMap := codeInsert (s.station n).config.code n s.codeMap } n =
        ⟨{ (s.station n).config with enable := true }, .cleared .awaiting⟩ := State.station_setStation_same _ _ _
    exact next_finish (by rw [State.taken_station, State.taken_codeMap, here]; rfl)

/-! ## DISABLE_STATION -/

theorem setStation_withCodeMap (s : State) (m : List (Nat × StationNo)) (n : StationNo) (x : Station) :
    State.setStation { s with codeMap := m } n x = { s.setStation n x with codeMap := m } := rfl

/-- DISABLE_STATION but for the awaited sets (R42, R61). -/
theorem disableStation_eq (n : StationNo) (s : State) : disableStation n s =
    let v := completeDeferrals n .aborted (pushNotice (.stationState n (s.station n).run.state .disabled .disable)
      { s.setStation n ⟨{ (s.station n).config with enable := false },
          { (s.station n).run.restarted with state := .disabled }⟩ with
        codeMap := codeRemove (s.station n).config.code n s.codeMap })
    if (s.station n).run.state = .admitted then leaveAwaited n v else v := by
  have written : State.station { s.setConfig n { (s.station n).config with enable := false } with
      codeMap := codeRemove (s.station n).config.code n s.codeMap } n =
        ⟨{ (s.station n).config with enable := false }, (s.station n).run⟩ := State.station_setConfig_same s n _
  have moved : moveStation n .disabled .disable (s.station n).run.restarted
      { s.setConfig n { (s.station n).config with enable := false } with
        codeMap := codeRemove (s.station n).config.code n s.codeMap } =
      completeDeferrals n .aborted (pushNotice (.stationState n (s.station n).run.state .disabled .disable)
        { s.setStation n ⟨{ (s.station n).config with enable := false },
            { (s.station n).run.restarted with state := .disabled }⟩ with
          codeMap := codeRemove (s.station n).config.code n s.codeMap }) := by
    rw [moveStation_completes (result := .aborted) rfl, State.setRun, written, setStation_withCodeMap, State.setConfig,
      State.setStation_setStation]
  unfold disableStation
  dsimp only
  rw [moved]

/-- Settles O23, by the state of the station. -/
theorem disableStationKeepsCountersAndReports : Obligations.DisableStationKeepsCountersAndReports := by
  refine ⟨fun gap r s n carries target offers => ?_, fun m code other n k rising => ?_⟩
  case refine_2 =>
    rw [codeLookup_codeRemove code n rising, eq_comm (a := code), eq_comm (a := n)]
  have taken := request_station (gap := gap) (handle := handleDisableStation) carries target offers rfl
  refine ⟨fun out => taken.trans (next_finish (if_pos out)), fun live other => taken.trans (next_finish ((if_neg live).trans ?_)),
    fun admitted => taken.trans (next_finish ((if_neg ?_).trans ?_))⟩
  · rw [disableStation_eq]
    exact congrArg _ (if_neg other)
  · rw [State.taken_station, admitted]
    decide
  · rw [disableStation_eq]
    exact congrArg _ (if_pos admitted)

/-! ## ADMIT_STATION and ACCEPT_SHAPE -/

/-- ADMIT_STATION on a HELD station (R47). -/
theorem admitStation_held {n : StationNo} {s : State} (held : (s.station n).run.state = .held) :
    moveStation n .admitted .admission (s.station n).run s = completeDeferrals n .ok
      (pushNotice (.stationState n .held .admitted .admission) (s.setRun n { (s.station n).run with state := .admitted })) := by
  rw [moveStation_completes (result := .ok) rfl, held]

section
variable {gap : Nat} {r : Request} {s : State} {n : StationNo} (carries : requestCarries r 10 0) (target : r.target = n.val)
  (offers : s.offers r)
include carries target offers

theorem acceptShape_accepted {x : Shape} (held : (s.station n).run.state = .shapeHeld)
    (shape : (s.station n).run.pendingShape = some x) : exec (.acceptShape gap r) s = .next (finish (withSlot r
      (fun d s => answerOrHold n r d (acquireShape n .accept x s)) (s.taken gap))) :=
  (request_station (handle := handleAcceptShape) carries target offers rfl).trans
    (next_finish (by rw [State.taken_station, held, shape]))

theorem acceptShape_refused (other : (s.station n).run.state ≠ .shapeHeld) :
    exec (.acceptShape gap r) s = .next (finish (refuse r .refusedState (s.taken gap))) := by
  refine (request_station (handle := handleAcceptShape) carries target offers rfl).trans (next_finish ?_)
  rw [State.taken_station]
  split
  · contradiction
  · rfl

end

/-- Settles O24, by the state of the station and the WAIT flag. -/
theorem admitAndAcceptMoveHeldStations : Obligations.AdmitAndAcceptMoveHeldStations := by
  refine ⟨fun gap r s n carries target offers => ?_, fun gap r s n carries target offers => ⟨fun x held shape => ?_,
    acceptShape_refused carries target offers⟩⟩
  · have taken := request_station (gap := gap) (handle := handleAdmitStation) carries target offers rfl
    refine ⟨fun held => taken.trans (next_finish ((if_pos held).trans ?_)), fun other => taken.trans
      (next_finish (if_neg other))⟩
    rw [admitStation_held (s := s.taken gap) held]
    rfl
  · have accepted := acceptShape_accepted (gap := gap) carries target offers held shape
    have moved : acquireShape n .accept x (s.taken gap) = pushNotice (.stationState n .shapeHeld .acquiring .accept)
        ((s.taken gap).setStation n ⟨{ (s.station n).config with shape := x }, { (s.station n).run.restarted with
          state := .acquiring, acqTimer := acqStart (s.taken gap) n }⟩) := by
      rw [acquireShape_eq _ _ _ _ rfl, State.taken_station, held]
    refine ⟨fun wait => ?_, fun wait full => ?_, fun d wait slot => ?_⟩
    · rw [accepted, withSlot_of_none wait, moved]
      rfl
    · rw [accepted, withSlot_of_full (s := s.taken gap) wait full]
    · rw [accepted, withSlot_of_free (s := s.taken gap) wait slot, moved, answerOrHold_some, pushNotice_station,
        pushNotice_elapsed, State.station_setStation_same]
      rfl

/-! ## EXCHANGE_STATION -/

theorem flagAt_eq_some (p : List Byte) (i : Nat) (b : Bool) : flagAt p i = some b ↔ byteAt p i = if b then 1 else 0 := by
  unfold flagAt
  split
  case h_1 zero => cases b <;> simp [zero]
  case h_2 one => cases b <;> simp [one]
  case h_3 zero one =>
    cases b
    · simpa using zero
    · simpa using one

theorem withValue_of_some {α : Type} {r : Request} {x : Option α} {v : α} {act : α → State → State} {s : State}
    (h : x = some v) : withValue r x act s = act v s := by
  subst h
  rfl

theorem withValue_of_none {α : Type} {r : Request} {x : Option α} {act : α → State → State} {s : State} (h : x = none) :
    withValue r x act s = refuse r .badRequest s := by
  subst h
  rfl

/-- The reports of the station leave every record, and their slots are free (R82). -/
theorem withdraw_eq (n : StationNo) (s : State) : withdraw n s = { s with
    timeline := s.timeline.map (fun q => { q with arrivals := q.arrivals.filter (fun e => e.1 ≠ n) })
    freeSlots := s.freeSlots + (s.timeline.map (fun q => (q.arrivals.filter (fun e => e.1 = n)).length)).sum } := by
  have others (l : List (StationNo × Report)) : l.filter (fun e => !(e.1 == n)) = l.filter (fun e => e.1 ≠ n) :=
    List.filter_congr fun e _ => by by_cases h : e.1 = n <;> simp [h]
  have its (l : List (StationNo × Report)) : l.filter (fun e => e.1 == n) = l.filter (fun e => e.1 = n) :=
    List.filter_congr fun e _ => by by_cases h : e.1 = n <;> simp [h]
  simp only [withdraw, Record.without, others, its]

theorem outgoingContext_eq (x : Station) : outgoingContext x =
    be16 x.config.code ++ be8 x.run.state.code ++ be16 x.run.counters.late ++ be16 x.run.counters.missing ++
      be16 x.run.counters.reject ++ be32 (max x.run.curMax x.run.prevMax) ++ beFlag x.run.latches.late.set ++
      beFlag x.run.latches.offGrid.set ++ beFlag x.run.latches.short.set ++ beFlag x.run.latches.silent.set ++
      beFlag x.run.latches.suspectTime.set := by
  simp only [outgoingContext, beCounters, bePer, StationRun.estimate, List.append_assoc]

section
variable {gap : Nat} {r : Request} {s : State} {n : StationNo} (carries : requestCarries r 6 33) (target : r.target = n.val)
  (offers : s.offers r)
include carries target offers

theorem exchangeStation_refused (h : ∀ enable, flagAt (r.delivered.take 33) 0 = some enable →
    stationConfigOf enable ((r.delivered.take 33).drop 1) = none) :
    exec (.exchangeStation gap r) s = .next (finish (refuse r .badRequest (s.taken gap))) :=
  (request_station (handle := handleExchangeStation) carries target offers rfl).trans
    (next_finish (withValue_of_none (Option.bind_eq_none_iff.2 h)))

theorem exchangeStation_judged {enable : Bool} {c : StationConfig} (flag : flagAt (r.delivered.take 33) 0 = some enable)
    (fields : stationConfigOf enable ((r.delivered.take 33).drop 1) = some c) : exec (.exchangeStation gap r) s =
      .next (finish (if c.enable ∧ c.code = 0 then refuse r .badRequest (s.taken gap)
        else if c.enable ∧ codeHeldByOther s n c.code then refuse r .codeInUse (s.taken gap)
        else answerRequest r .ok (outgoingContext (s.station n)) (exchangeStation n c (s.taken gap)))) :=
  (request_station (handle := handleExchangeStation) carries target offers rfl).trans
    (next_finish (withValue_of_some (Option.bind_eq_some_iff.2 ⟨enable, flag, fields⟩)))

end

theorem codeHeldByOther_iff (s : State) (n : StationNo) (code : Nat) :
    codeHeldByOther s n code = true ↔ ∃ m, codeLookup s.codeMap code = some m ∧ m ≠ n := by
  unfold codeHeldByOther
  split
  case h_1 m found => simp [found]
  case h_2 none => simp [none]

/-- Settles O26, by the fields, the code and the state of the station. -/
theorem exchangeStationReplacesTheDescriptor : Obligations.ExchangeStationReplacesTheDescriptor := by
  refine ⟨fun gap r s n carries target offers none => exchangeStation_refused carries target offers none,
    fun gap r s n enable c carries target offers flag fields => ?_, flagAt_eq_some⟩
  have on := stationConfigOf_enable fields
  have judged := exchangeStation_judged (gap := gap) carries target offers flag fields
  rw [on] at judged
  refine ⟨fun set zero => judged.trans (next_finish (if_pos ⟨set, zero⟩)), fun m set code found other => judged.trans
    (next_finish ((if_neg fun h => code h.2).trans (if_pos ⟨set, (codeHeldByOther_iff s n c.code).2 ⟨m, found, other⟩⟩))),
    fun free => judged.trans
    (next_finish ((if_neg ?_).trans ((if_neg ?_).trans ?_)))⟩
  · rintro ⟨set, zero⟩
    rcases free with off | ⟨code, -⟩
    · exact Bool.false_ne_true (off.symm.trans set)
    · exact code zero
  · rintro ⟨set, held⟩
    obtain ⟨m, found, other⟩ := (codeHeldByOther_iff s n c.code).1 held
    rcases free with off | ⟨-, own⟩
    · exact Bool.false_ne_true (off.symm.trans set)
    · exact other (own m found)
  · rw [outgoingContext_eq, exchangeStation, withdraw_eq, on]
    rfl

end Sys2Proof.Machine
end

section
/-! PROOFS. The configurations on the wire: the bytes that a payload parser reads are those of the fields it answers, and no
others (O25, O34). -/

namespace Sys2Proof.Machine

/-! ## Fields of a list of bytes -/

theorem byteAt_eq {p : List Byte} {i : Nat} (h : i < p.length) : byteAt p i = p[i].toNat := by
  rw [byteAt, List.getD_eq_getElem?_getD, List.getElem?_eq_getElem h, Option.getD_some]

theorem byteAt_lt (p : List Byte) (i : Nat) : byteAt p i < 256 := BitVec.isLt _

theorem numAt16_lt (p : List Byte) (i : Nat) : numAt16 p i < 65536 := by
  have := byteAt_lt p i
  have := byteAt_lt p (i + 1)
  rw [numAt16]
  omega

section
variable {p : List Byte} {i x : Nat}

/-- From an offset on, a list of bytes is that of a number that one byte holds, and what follows. -/
theorem drop_eq_be8 {q : List Byte} (inside : i < p.length) (small : x ≤ 255) :
    p.drop i = be8 x ++ q ↔ byteAt p i = x ∧ p.drop (i + 1) = q := by
  rw [List.drop_eq_getElem_cons inside, be8, byteAt_eq inside, List.cons_append, List.nil_append, List.cons.injEq,
    BitVec.toNat_eq, BitVec.toNat_ofNat, Nat.mod_eq_of_lt (by omega)]

/-- From an offset on, a list of bytes is that of a number that two bytes hold, and what follows. -/
theorem drop_eq_be16 {q : List Byte} (inside : i + 1 < p.length) (small : x ≤ 65535) :
    p.drop i = be16 x ++ q ↔ numAt16 p i = x ∧ p.drop (i + 2) = q := by
  have first : i < p.length := by omega
  rw [List.drop_eq_getElem_cons first, List.drop_eq_getElem_cons inside, be16, numAt16, byteAt_eq first, byteAt_eq inside,
    List.cons_append, List.cons_append, List.nil_append, List.cons.injEq, List.cons.injEq, BitVec.toNat_eq,
    BitVec.toNat_eq, BitVec.toNat_ofNat, BitVec.toNat_ofNat, ← and_assoc]
  have := p[i].isLt
  have := p[i + 1].isLt
  exact and_congr_left fun _ => by omega

theorem drop_eq_beFlag {q : List Byte} (inside : i < p.length) (b : Bool) :
    p.drop i = beFlag b ++ q ↔ flagAt p i = some b ∧ p.drop (i + 1) = q := by
  rw [flagAt_eq_some, ← drop_eq_be8 inside (by split <;> omega)]
  cases b <;> rfl

theorem drop_eq_be16_last (inside : i + 2 = p.length) (small : x ≤ 65535) : p.drop i = be16 x ↔ numAt16 p i = x := by
  have done : p.drop (i + 2) = [] := List.drop_eq_nil_of_le (by omega)
  rw [← List.append_nil (be16 x), drop_eq_be16 (by omega) small, done]
  exact and_iff_left rfl

end

/-! ## Codes -/

theorem rateOfCode_eq_some (n : Nat) (rate : RateCode) : RateCode.ofCode n = some rate ↔ n = rate.code := by
  refine ⟨fun h => ?_, ?_⟩
  · unfold RateCode.ofCode at h
    split at h <;> cases h <;> rfl
  · rintro rfl
    cases rate <;> rfl

theorem sensAt_eq_some (p : List Byte) (i : Nat) (x : Sensitivity) : sensAt p i = some x ↔ byteAt p i = x.code := by
  unfold sensAt
  refine ⟨fun h => ?_, fun h => ?_⟩
  · split at h <;> cases h <;> assumption
  · rw [h]
    cases x <;> rfl

/-- The number of an acquisition limit (Table 3-1). -/
def AcqLimit.code : AcqLimit → Nat
  | .s30 => 0
  | .s60 => 1
  | .off => 2

theorem acqLimitAt_eq_some (p : List Byte) (i : Nat) (x : AcqLimit) : acqLimitAt p i = some x ↔ byteAt p i = x.code := by
  unfold acqLimitAt
  refine ⟨fun h => ?_, fun h => ?_⟩
  · split at h <;> cases h <;> assumption
  · rw [h]
    cases x <;> rfl

theorem centerAt_eq_some (p : List Byte) (i : Nat) (x : CenterId) : centerAt p i = some x ↔ byteAt p i = centerCode x := by
  unfold centerAt
  refine ⟨fun h => ?_, fun h => ?_⟩
  · split at h <;> cases h <;> assumption
  · rw [h]
    cases x <;> rfl

theorem enablesAt_eq_some (p : List Byte) (i : Nat) (x : PerCondition Bool) : enablesAt p i = some x ↔
    flagAt p i = some x.late ∧ flagAt p (i + 1) = some x.offGrid ∧ flagAt p (i + 2) = some x.short ∧
      flagAt p (i + 3) = some x.silent ∧ flagAt p (i + 4) = some x.suspectTime := by
  simp only [enablesAt, Option.bind_eq_bind, Option.bind_eq_some_iff, Option.pure_def, Option.some.injEq]
  refine ⟨?_, fun ⟨a, b, c, d, e⟩ => ⟨_, a, _, b, _, c, _, d, _, e, rfl⟩⟩
  rintro ⟨_, a, _, b, _, c, _, d, _, e, rfl⟩
  exact ⟨a, b, c, d, e⟩

theorem sensitivitiesAt_eq_some (p : List Byte) (i : Nat) (x : PerCondition Sensitivity) : sensitivitiesAt p i = some x ↔
    sensAt p i = some x.late ∧ sensAt p (i + 1) = some x.offGrid ∧ sensAt p (i + 2) = some x.short ∧
      sensAt p (i + 3) = some x.silent ∧ sensAt p (i + 4) = some x.suspectTime := by
  simp only [sensitivitiesAt, Option.bind_eq_bind, Option.bind_eq_some_iff, Option.pure_def, Option.some.injEq]
  refine ⟨?_, fun ⟨a, b, c, d, e⟩ => ⟨_, a, _, b, _, c, _, d, _, e, rfl⟩⟩
  rintro ⟨_, a, _, b, _, c, _, d, _, e, rfl⟩
  exact ⟨a, b, c, d, e⟩

/-! ## Station configurations -/

/-- The 32 bytes carry the fields of a station configuration after enable, in the order of Table 3-1. -/
def StationFields (p : List Byte) (c : StationConfig) : Prop :=
  numAt16 p 0 = c.code ∧ numAt16 p 2 = c.shape.code ∧ byteAt p 4 = c.shape.phasors ∧ byteAt p 5 = c.shape.analogs ∧
    RateCode.ofCode (byteAt p 6) = some c.rate ∧ numAt16 p 7 = c.snapTol ∧ byteAt p 9 = c.quality ∧
    byteAt p 10 = c.acquire ∧ acqLimitAt p 11 = some c.acqLimit ∧ byteAt p 12 = c.silence ∧ flagAt p 13 = some c.hold ∧
    flagAt p 14 = some c.shapeAuto ∧ flagAt p 15 = some c.reacquire ∧ enablesAt p 16 = some c.enables ∧
    sensitivitiesAt p 21 = some c.sens ∧ numAt16 p 26 = c.thresholds.late ∧ numAt16 p 28 = c.thresholds.missing ∧
    numAt16 p 30 = c.thresholds.reject

theorem stationConfigOf_eq_some (enable : Bool) (p : List Byte) (c : StationConfig) :
    stationConfigOf enable p = some c ↔ c.enable = enable ∧ StationFields p c ∧ c.inRange = true := by
  simp only [stationConfigOf, Option.bind_eq_bind, Option.bind_eq_some_iff, Option.ite_none_right_eq_some, Option.some.injEq,
    StationFields]
  constructor
  · rintro ⟨_, rate, _, limit, _, hold, _, auto, _, re, _, en, _, sens, range, rfl⟩
    exact ⟨rfl, ⟨rfl, rfl, rfl, rfl, rate, rfl, rfl, rfl, limit, rfl, hold, auto, re, en, sens, rfl, rfl, rfl⟩, range⟩
  · rintro ⟨rfl, ⟨code, shape, P, A, rate, tol, quality, acquire, limit, silence, hold, auto, re, en, sens, t1, t2, t3⟩, range⟩
    refine ⟨_, rate, _, limit, _, hold, _, auto, _, re, _, en, _, sens, ?_⟩
    rw [code, shape, P, A, tol, quality, acquire, silence, t1, t2, t3]
    exact ⟨range, rfl⟩

theorem rateCode_le (rate : RateCode) : rate.code ≤ 255 := by cases rate <;> decide
theorem sensCode_le (x : Sensitivity) : x.code ≤ 255 := by cases x <;> decide
theorem acqCode_le (x : AcqLimit) : x.code ≤ 255 := by cases x <;> decide

theorem drop_eq_rate {p q : List Byte} {i : Nat} (inside : i < p.length) (rate : RateCode) :
    p.drop i = be8 rate.code ++ q ↔ RateCode.ofCode (byteAt p i) = some rate ∧ p.drop (i + 1) = q := by
  rw [rateOfCode_eq_some, drop_eq_be8 inside (rateCode_le rate)]

theorem drop_eq_sens {p q : List Byte} {i : Nat} (inside : i < p.length) (x : Sensitivity) :
    p.drop i = be8 x.code ++ q ↔ sensAt p i = some x ∧ p.drop (i + 1) = q := by
  rw [sensAt_eq_some, drop_eq_be8 inside (sensCode_le x)]

theorem drop_eq_acqLimit {p q : List Byte} {i : Nat} (inside : i < p.length) (x : AcqLimit) :
    p.drop i = be8 x.code ++ q ↔ acqLimitAt p i = some x ∧ p.drop (i + 1) = q := by
  rw [acqLimitAt_eq_some, drop_eq_be8 inside (acqCode_le x)]

/-- The bytes of a configuration in its ranges are the ones that carry its fields. -/
theorem eq_stationBytes_iff {p : List Byte} (len : p.length = 32) (c : StationConfig) (code : c.code ≤ 65534)
    (shape : c.shape.code ≤ 65535) (phasors : c.shape.phasors ≤ 32) (analogs : c.shape.analogs ≤ 8) (tol : c.snapTol ≤ 500)
    (quality : c.quality ≤ 15) (acquire : c.acquire ≤ 32) (silence : c.silence ≤ 60) (late : c.thresholds.late ≤ 65535)
    (missing : c.thresholds.missing ≤ 65535) (reject : c.thresholds.reject ≤ 65535) :
    p = be16 c.code ++ be16 c.shape.code ++ be8 c.shape.phasors ++ be8 c.shape.analogs ++ be8 c.rate.code ++
      be16 c.snapTol ++ be8 c.quality ++ be8 c.acquire ++ be8 c.acqLimit.code ++ be8 c.silence ++ beFlag c.hold ++
      beFlag c.shapeAuto ++ beFlag c.reacquire ++
      beFlag c.enables.late ++ beFlag c.enables.offGrid ++ beFlag c.enables.short ++ beFlag c.enables.silent ++
      beFlag c.enables.suspectTime ++
      be8 c.sens.late.code ++ be8 c.sens.offGrid.code ++ be8 c.sens.short.code ++ be8 c.sens.silent.code ++
      be8 c.sens.suspectTime.code ++ be16 c.thresholds.late ++ be16 c.thresholds.missing ++ be16 c.thresholds.reject ↔
    StationFields p c := by
  simp only [List.append_assoc]
  rw [StationFields, enablesAt_eq_some, sensitivitiesAt_eq_some]
  simp only [and_assoc]
  change p.drop 0 = _ ↔ _
  rw [drop_eq_be16 (by omega) (by omega), drop_eq_be16 (by omega) shape, drop_eq_be8 (by omega) (by omega),
    drop_eq_be8 (by omega) (by omega), drop_eq_rate (by omega), drop_eq_be16 (by omega) (by omega),
    drop_eq_be8 (by omega) (by omega), drop_eq_be8 (by omega) (by omega), drop_eq_acqLimit (by omega),
    drop_eq_be8 (by omega) (by omega), drop_eq_beFlag (by omega), drop_eq_beFlag (by omega), drop_eq_beFlag (by omega),
    drop_eq_beFlag (by omega), drop_eq_beFlag (by omega), drop_eq_beFlag (by omega), drop_eq_beFlag (by omega),
    drop_eq_beFlag (by omega), drop_eq_sens (by omega), drop_eq_sens (by omega), drop_eq_sens (by omega),
    drop_eq_sens (by omega), drop_eq_sens (by omega), drop_eq_be16 (by omega) late, drop_eq_be16 (by omega) missing,
    drop_eq_be16_last (by omega) reject]

theorem stationInRange_iff (c : StationConfig) : c.inRange = true ↔
    c.code ≤ 65534 ∧ c.shape.phasors ≤ 32 ∧ c.shape.analogs ≤ 8 ∧ c.snapTol ≤ 500 ∧ c.quality ≤ 15 ∧ 1 ≤ c.acquire ∧
      c.acquire ≤ 32 ∧ 1 ≤ c.silence ∧ c.silence ≤ 60 := by
  simp only [StationConfig.inRange, Bool.and_eq_true, decide_eq_true_eq, and_assoc]

/-- What two bytes do not give of the fields is in the ranges of Table 3-1. -/
theorem StationFields.words {p : List Byte} {c : StationConfig} (h : StationFields p c) : c.shape.code ≤ 65535 ∧
    c.thresholds.late ≤ 65535 ∧ c.thresholds.missing ≤ 65535 ∧ c.thresholds.reject ≤ 65535 := by
  obtain ⟨-, shape, -, -, -, -, -, -, -, -, -, -, -, -, -, late, missing, reject⟩ := h
  have := numAt16_lt p 2
  have := numAt16_lt p 26
  have := numAt16_lt p 28
  have := numAt16_lt p 30
  omega

theorem sameIdentity_iff (a b : StationConfig) :
    sameIdentity a b = true ↔ a.code = b.code ∧ a.shape = b.shape ∧ a.rate = b.rate := by
  simp only [sameIdentity, Bool.and_eq_true, beq_iff_eq, and_assoc]

/-- Settles O25: the request judges its fields and then the identity of a station that is not DISABLED, and the parser reads
exactly the bytes of a configuration in its ranges. -/
theorem writeStationReplacesTheConfiguration : Obligations.WriteStationReplacesTheConfiguration := by
  refine ⟨fun gap r s n carries target offers => ?request, fun enable p c len => ?_, rfl, rfl, rfl, rfl⟩
  case request =>
    have taken := request_station (gap := gap) (handle := handleWriteStation) carries target offers rfl
    refine ⟨fun none => taken.trans (next_finish (withValue_of_none none)), fun c fields => ?_⟩
    have judged := taken.trans (next_finish (withValue_of_some fields))
    have differs : (!sameIdentity c (s.station n).config) = true ↔ ¬(c.code = (s.station n).config.code ∧
        c.shape = (s.station n).config.shape ∧ c.rate = (s.station n).config.rate) := by
      rw [← sameIdentity_iff, Bool.not_eq_true', Bool.not_eq_true]
    refine ⟨fun live other => judged.trans (next_finish (if_pos ⟨live, differs.2 ?differ⟩)),
      fun same => judged.trans (next_finish (if_neg ?agree))⟩
    case differ =>
      rintro ⟨code, shape, rate⟩
      exact other.elim (· code) fun h => h.elim (· shape) (· rate)
    case agree =>
      rintro ⟨live, h⟩
      exact same.elim live (differs.1 h)
  rw [stationConfigOf_eq_some, stationInRange_iff]
  constructor
  · rintro ⟨on, fields, code, phasors, analogs, tol, quality, acquire, acquires, silence, silences⟩
    obtain ⟨shape, late, missing, reject⟩ := fields.words
    exact ⟨on, code, shape, phasors, analogs, tol, quality, acquire, acquires, silence, silences, late, missing, reject,
      (eq_stationBytes_iff len c code shape phasors analogs tol quality acquires silences late missing reject).2 fields⟩
  · rintro ⟨on, code, shape, phasors, analogs, tol, quality, acquire, acquires, silence, silences, late, missing, reject, bytes⟩
    exact ⟨on, (eq_stationBytes_iff len c code shape phasors analogs tol quality acquires silences late missing reject).1 bytes,
      code, phasors, analogs, tol, quality, acquire, acquires, silence, silences⟩

/-! ## The globals, the Timebase and the stream configurations -/

theorem drop_eq_center {p q : List Byte} {i : Nat} (inside : i < p.length) (x : CenterId) :
    p.drop i = be8 (centerCode x) ++ q ↔ centerAt p i = some x ∧ p.drop (i + 1) = q := by
  rw [centerAt_eq_some, drop_eq_be8 inside (by cases x <;> decide)]

theorem drop_eq_be8_last {p : List Byte} {i x : Nat} (inside : i + 1 = p.length) (small : x ≤ 255) :
    p.drop i = be8 x ↔ byteAt p i = x := by
  have done : p.drop (i + 1) = [] := List.drop_eq_nil_of_le (by omega)
  rw [← List.append_nil (be8 x), drop_eq_be8 (by omega) small, done]
  exact and_iff_left rfl

theorem drop_eq_beFlag_last {p : List Byte} {i : Nat} (inside : i + 1 = p.length) (b : Bool) :
    p.drop i = beFlag b ↔ flagAt p i = some b := by
  have done : p.drop (i + 1) = [] := List.drop_eq_nil_of_le (by omega)
  rw [← List.append_nil (beFlag b), drop_eq_beFlag (by omega), done]
  exact and_iff_left rfl

/-- The management link mask as a number (R186). -/
theorem mask_iff (v : Nat) (a b : Bool) : ¬(v = 0 ∨ 3 < v) ∧ (v % 2 == 1) = a ∧ (v / 2 == 1) = b ↔
    (a = true ∨ b = true) ∧ v = (if a then 1 else 0) + (if b then 2 else 0) := by
  cases a <;> cases b <;> simp <;> omega

theorem globalsOf_eq_some {p : List Byte} (len : p.length = 9) (g : Globals) : globalsOf p = some g ↔
    g.transportType ≤ 65535 ∧ g.futureTolerance ≤ 1000 ∧ g.noticeDestination ≤ 65535 ∧
      (g.mask0 = true ∨ g.mask1 = true) ∧
      p = be16 g.transportType ++ be16 g.futureTolerance ++ be8 (centerCode g.noticeLink) ++ be16 g.noticeDestination ++
        be8 (centerCode g.throughLink) ++ be8 ((if g.mask0 then 1 else 0) + (if g.mask1 then 2 else 0)) := by
  have mask : (if g.mask0 then 1 else 0) + (if g.mask1 then 2 else 0) ≤ 255 := by split <;> split <;> omega
  have bytes (type : g.transportType ≤ 65535) (tol : g.futureTolerance ≤ 1000) (dest : g.noticeDestination ≤ 65535) :
      p = be16 g.transportType ++ be16 g.futureTolerance ++ be8 (centerCode g.noticeLink) ++ be16 g.noticeDestination ++
        be8 (centerCode g.throughLink) ++ be8 ((if g.mask0 then 1 else 0) + (if g.mask1 then 2 else 0)) ↔
      numAt16 p 0 = g.transportType ∧ numAt16 p 2 = g.futureTolerance ∧ centerAt p 4 = some g.noticeLink ∧
        numAt16 p 5 = g.noticeDestination ∧ centerAt p 7 = some g.throughLink ∧
        byteAt p 8 = (if g.mask0 then 1 else 0) + (if g.mask1 then 2 else 0) := by
    simp only [List.append_assoc]
    change p.drop 0 = _ ↔ _
    rw [drop_eq_be16 (by omega) type, drop_eq_be16 (by omega) (by omega), drop_eq_center (by omega),
      drop_eq_be16 (by omega) dest, drop_eq_center (by omega), drop_eq_be8_last (by omega) mask]
  simp only [globalsOf, Option.bind_eq_bind, Option.bind_eq_some_iff, Option.ite_none_left_eq_some, Option.some.injEq]
  constructor
  · rintro ⟨link, notice, through, thr, range, rfl⟩
    have type := numAt16_lt p 0
    have dest := numAt16_lt p 5
    dsimp only at bytes mask ⊢
    have mask := (mask_iff (byteAt p 8) _ _).1 ⟨fun h => range (.inr h), rfl, rfl⟩
    exact ⟨by omega, by omega, by omega, mask.1, (bytes (by omega) (by omega) (by omega)).2
      ⟨rfl, rfl, notice, rfl, thr, mask.2⟩⟩
  · rintro ⟨type, tol, dest, some, h⟩
    obtain ⟨type, tol', notice, dest, through, m⟩ := (bytes type tol dest).1 h
    obtain ⟨range, m0, m1⟩ := (mask_iff (byteAt p 8) g.mask0 g.mask1).2 ⟨some, m⟩
    refine ⟨_, notice, _, through, ?_, ?_⟩
    · omega
    · rw [type, tol', dest, m0, m1]

theorem timebaseConfigOf_eq_some {p : List Byte} (len : p.length = 4) (i : InputId) (v : Bool) (limit : Nat) :
    timebaseConfigOf p = some (i, v, limit) ↔
      10 ≤ limit ∧ limit ≤ 3600 ∧ p = be8 (inputCode i) ++ beFlag v ++ be16 limit := by
  have input (w : Bool) : (match byteAt p 0 with
      | 0 => some (InputId.a, w, numAt16 p 2)
      | 1 => some (.b, w, numAt16 p 2)
      | _ => none) = some (i, v, limit) ↔ byteAt p 0 = inputCode i ∧ w = v ∧ numAt16 p 2 = limit := by
    split
    case h_1 zero => cases i <;> simp [zero, inputCode]
    case h_2 one => cases i <;> simp [one, inputCode]
    case h_3 zero one => cases i <;> simp [inputCode] <;> intro h <;> contradiction
  have bytes (top : limit ≤ 3600) : p = be8 (inputCode i) ++ beFlag v ++ be16 limit ↔
      byteAt p 0 = inputCode i ∧ flagAt p 1 = some v ∧ numAt16 p 2 = limit := by
    simp only [List.append_assoc]
    change p.drop 0 = _ ↔ _
    rw [drop_eq_be8 (by omega) (by cases i <;> decide), drop_eq_beFlag (by omega), drop_eq_be16_last (by omega) (by omega)]
  simp only [timebaseConfigOf, Option.bind_eq_bind, Option.bind_eq_some_iff, Option.ite_none_right_eq_some]
  constructor
  · rintro ⟨w, flag, ⟨low, high⟩, found⟩
    obtain ⟨source, rfl, rfl⟩ := (input w).1 found
    exact ⟨low, high, (bytes high).2 ⟨source, flag, rfl⟩⟩
  · rintro ⟨low, high, same⟩
    obtain ⟨source, flag, rfl⟩ := (bytes high).1 same
    exact ⟨v, flag, ⟨low, high⟩, (input v).2 ⟨source, rfl, rfl⟩⟩

theorem streamInRange_iff (c : StreamConfig) : c.inRange = true ↔ c.priority ≤ 7 ∧ c.planBase ≤ 4095 ∧ 1 ≤ c.planLength ∧
    c.planBase + c.planLength ≤ 4096 ∧ 1 ≤ c.fixedWait ∧ c.fixedWait ≤ 10000 ∧ 1 ≤ c.floorWait ∧ c.floorWait ≤ 10000 ∧
    c.floorWait ≤ c.ceilingWait ∧ c.ceilingWait ≤ 10000 ∧ c.margin ≤ 1000 := by
  simp only [StreamConfig.inRange, Bool.and_eq_true, decide_eq_true_eq, and_assoc]

/-- The 19 bytes carry the fields of a stream configuration, in the order of Table 5-1. -/
def StreamFields (p : List Byte) (c : StreamConfig) : Prop :=
  RateCode.ofCode (byteAt p 0) = some c.rate ∧ centerAt p 1 = some c.link ∧ numAt16 p 2 = c.destination ∧
    byteAt p 4 = c.priority ∧ numAt16 p 5 = c.planBase ∧ numAt16 p 7 = c.planLength ∧ flagAt p 9 = some c.adaptive ∧
    numAt16 p 10 = c.fixedWait ∧ numAt16 p 12 = c.floorWait ∧ numAt16 p 14 = c.ceilingWait ∧ numAt16 p 16 = c.margin ∧
    flagAt p 18 = some c.closeOnComplete

theorem streamConfigOf_fields (p : List Byte) (c : StreamConfig) :
    streamConfigOf p = some c ↔ StreamFields p c ∧ c.inRange = true := by
  simp only [streamConfigOf, Option.bind_eq_bind, Option.bind_eq_some_iff, Option.ite_none_right_eq_some, Option.some.injEq,
    StreamFields]
  constructor
  · rintro ⟨_, rate, _, link, _, adaptive, _, complete, range, rfl⟩
    exact ⟨⟨rate, link, rfl, rfl, rfl, rfl, adaptive, rfl, rfl, rfl, rfl, complete⟩, range⟩
  · rintro ⟨⟨rate, link, dest, priority, base, length, adaptive, fixed, floor, ceiling, margin, complete⟩, range⟩
    refine ⟨_, rate, _, link, _, adaptive, _, complete, ?_⟩
    rw [dest, priority, base, length, fixed, floor, ceiling, margin]
    exact ⟨range, rfl⟩

theorem eq_streamBytes_iff {p : List Byte} (len : p.length = 19) (c : StreamConfig) (dest : c.destination ≤ 65535)
    (priority : c.priority ≤ 7) (base : c.planBase ≤ 4095) (segment : c.planBase + c.planLength ≤ 4096)
    (fixed : c.fixedWait ≤ 10000) (floor : c.floorWait ≤ 10000) (ceiling : c.ceilingWait ≤ 10000) (margin : c.margin ≤ 1000) :
    p = be8 c.rate.code ++ be8 (centerCode c.link) ++ be16 c.destination ++ be8 c.priority ++ be16 c.planBase ++
      be16 c.planLength ++ beFlag c.adaptive ++ be16 c.fixedWait ++ be16 c.floorWait ++ be16 c.ceilingWait ++
      be16 c.margin ++ beFlag c.closeOnComplete ↔ StreamFields p c := by
  simp only [List.append_assoc]
  change p.drop 0 = _ ↔ _
  rw [StreamFields, drop_eq_rate (by omega), drop_eq_center (by omega), drop_eq_be16 (by omega) dest,
    drop_eq_be8 (by omega) (by omega), drop_eq_be16 (by omega) (by omega), drop_eq_be16 (by omega) (by omega),
    drop_eq_beFlag (by omega), drop_eq_be16 (by omega) (by omega), drop_eq_be16 (by omega) (by omega),
    drop_eq_be16 (by omega) (by omega), drop_eq_be16 (by omega) (by omega), drop_eq_beFlag_last (by omega)]

/-- Settles O34: each write judges its fields and then its state, and each parser reads exactly the bytes of a configuration in
its ranges. -/
theorem configurationWritesReplaceTheWhole : Obligations.ConfigurationWritesReplaceTheWhole := by
  refine ⟨fun gap r s offers => ⟨fun carries => ?globals, fun carries => ?timebase, fun k carries target => ?stream⟩,
    fun p g len => globalsOf_eq_some len g, fun p i v limit len => timebaseConfigOf_eq_some len i v limit,
    fun p c len => ?fields, rfl, rfl, rfl, rfl⟩
  case globals =>
    have taken := request_carried (gap := gap) (handle := handleWriteGlobal) carries offers rfl
    exact ⟨fun none => taken.trans (next_finish (withValue_of_none none)),
      fun g fields => taken.trans (next_finish (withValue_of_some fields))⟩
  case timebase =>
    have taken := request_carried (gap := gap) (handle := handleWriteTimebase) carries offers rfl
    exact ⟨fun none => taken.trans (next_finish (withValue_of_none none)),
      fun i v limit fields => taken.trans (next_finish (withValue_of_some fields))⟩
  case stream =>
    have taken := request_stream (gap := gap) (handle := handleWriteStream) carries target offers rfl
    refine ⟨fun none => taken.trans (next_finish (withValue_of_none none)), fun c fields => ?_⟩
    have judged := taken.trans (next_finish (withValue_of_some fields))
    exact ⟨fun live => judged.trans (next_finish (if_pos live)),
      fun stopped link queued => judged.trans (next_finish ((if_neg fun live => live stopped).trans (if_pos ⟨link, queued⟩))),
      fun stopped free => judged.trans (next_finish ((if_neg fun live => live stopped).trans
        (if_neg fun busy => free.elim busy.1 busy.2)))⟩
  case fields =>
    rw [streamConfigOf_fields, streamInRange_iff]
    constructor
    · rintro ⟨fields, priority, base, length, segment, f1, fixed, l1, floor, order, ceiling, margin⟩
      have dest : c.destination ≤ 65535 := by
        obtain ⟨-, -, dest, -⟩ := fields
        have := numAt16_lt p 2
        omega
      exact ⟨dest, priority, base, length, segment, f1, fixed, l1, floor, order, ceiling, margin,
        (eq_streamBytes_iff len c dest priority base segment fixed floor ceiling margin).2 fields⟩
    · rintro ⟨dest, priority, base, length, segment, f1, fixed, l1, floor, order, ceiling, margin, bytes⟩
      exact ⟨(eq_streamBytes_iff len c dest priority base segment fixed floor ceiling margin).1 bytes,
        priority, base, length, segment, f1, fixed, l1, floor, order, ceiling, margin⟩

end Sys2Proof.Machine
end

section
/-! PROOFS. WRITE_PLAN: its checks, the entries it reads and those it writes (O35). -/

namespace Sys2Proof.Machine

/-! ## Plan entries on the wire -/

/-- The code and index bytes that stand for a selector (Table 6-1); the index of one that has none is not looked at. -/
def selectorReads (code index : Nat) : Selector → Prop
  | .phasor i => code = 0 ∧ index = i.val
  | .frequency => code = 1
  | .rocof => code = 2
  | .analog i => code = 3 ∧ index = i.val
  | .status => code = 4
  | .unused => code = 5

theorem selectorOf_eq_some (code index : Nat) (sel : Selector) :
    selectorOf code index = some sel ↔ selectorReads code index sel := by
  refine ⟨fun h => ?_, fun h => ?_⟩
  · unfold selectorOf at h
    split at h
    case h_1 =>
      split at h
      · cases h
        exact ⟨rfl, rfl⟩
      · cases h
    case h_4 =>
      split at h
      · cases h
        exact ⟨rfl, rfl⟩
      · cases h
    all_goals cases h <;> rfl
  · cases sel with
    | phasor i =>
      obtain ⟨rfl, rfl⟩ := h
      exact dif_pos i.isLt
    | analog i =>
      obtain ⟨rfl, rfl⟩ := h
      exact dif_pos i.isLt
    | frequency | rocof | status | unused =>
      cases h
      rfl

theorem planEntryOf_eq_some (p : List Byte) (i : Nat) (e : PlanEntry) : planEntryOf p i = some e ↔
    numAt16 p i < 1024 ∧ e.station.val = (if e.selector = .unused then 0 else numAt16 p i) ∧
      selectorReads (byteAt p (i + 2)) (byteAt p (i + 3)) e.selector := by
  rw [← selectorOf_eq_some]
  unfold planEntryOf
  split
  case isFalse out => simp [out]
  case isTrue known =>
    split
    case h_1 none => simp [none]
    case h_2 unused =>
      rw [unused]
      constructor
      · rintro ⟨rfl⟩
        exact ⟨known, rfl, rfl⟩
      · rintro ⟨-, station, sel⟩
        have sel : e.selector = .unused := (Option.some.inj sel).symm
        have zero : e.station = 0 := Fin.ext (by rw [station, if_pos sel]; rfl)
        cases e
        cases sel
        cases zero
        rfl
    case h_3 sel used found =>
      rw [found]
      constructor
      · rintro ⟨rfl⟩
        exact ⟨known, (if_neg used).symm, rfl⟩
      · rintro ⟨-, station, same⟩
        have same : e.selector = sel := (Option.some.inj same).symm
        subst same
        rw [if_neg used] at station
        have station : e.station = ⟨numAt16 p i, known⟩ := Fin.ext station
        cases e
        cases station
        rfl

theorem planEntriesOf_eq_some (p : List Byte) (first count : Nat) (l : List PlanEntry) :
    planEntriesOf p first count = some l ↔
      l.length = count ∧ ∀ j e, l[j]? = some e → planEntryOf p (first + 4 * j) = some e := by
  induction count generalizing first l with
  | zero =>
    rw [planEntriesOf, Option.some.injEq, eq_comm, List.length_eq_zero_iff]
    exact (and_iff_left_of_imp (by rintro rfl; nofun)).symm
  | succ n ih =>
    simp only [planEntriesOf, Option.bind_eq_bind, Option.bind_eq_some_iff, Option.pure_def, Option.some.injEq, ih]
    constructor
    · rintro ⟨e, head, rest, ⟨len, tail⟩, rfl⟩
      refine ⟨by rw [List.length_cons, len], fun j d at_ => ?_⟩
      cases j with
      | zero =>
        cases at_
        exact head
      | succ j =>
        have := tail j d at_
        rwa [show first + 4 * (j + 1) = first + 4 + 4 * j by omega]
    · rintro ⟨len, all⟩
      cases l with
      | nil => cases len
      | cons e rest =>
        refine ⟨e, all 0 e rfl, rest, ⟨Nat.succ.inj len, fun j d at_ => ?_⟩, rfl⟩
        have := all (j + 1) d at_
        rwa [show first + 4 * (j + 1) = first + 4 + 4 * j by omega] at this

/-! ## The checks and the write -/

theorem touchesRunning_iff (s : State) (first count : Nat) : touchesRunning s first count = true ↔
    ∃ j, (s.stream j).run.state ≠ .stopped ∧ (s.stream j).config.planBase < first + count ∧
      first < (s.stream j).config.planBase + (s.stream j).config.planLength := by
  simp [touchesRunning, mem_allStreams, and_assoc]

/-- Entries are written in list order from the first one on, and nothing else (R119). -/
theorem writeEntries_get (first : Nat) (l : List PlanEntry) (v : Vector PlanEntry 4096) (i : Fin 4096) :
    (writeEntries first l v)[i] = (if first ≤ i.val then l[i.val - first]? else none).getD v[i] := by
  induction l generalizing first v with
  | nil => simp [writeEntries]
  | cons e l ih =>
    have set : (v.setIfInBounds first e)[i] = if first = i.val then e else v[i] := Vector.getElem_setIfInBounds i.isLt
    rw [writeEntries, ih, set]
    rcases Nat.lt_trichotomy i.val first with before | here | after
    · rw [if_neg (by omega), if_neg (by omega), if_neg (by omega)]
    · have none : i.val - first = 0 := by omega
      rw [if_neg (by omega), if_pos here.symm, if_pos (by omega), none]
      rfl
    · have next : i.val - first = i.val - (first + 1) + 1 := by omega
      rw [if_pos (by omega), if_neg (by omega), if_pos (by omega), next, List.getElem?_cons_succ]

/-- Settles O35, by the first check that fails. -/
theorem writePlanChecksInOrderAndWrites : Obligations.WritePlanChecksInOrderAndWrites := by
  refine ⟨fun gap r s k => ?_, fun p first count l => ?_⟩
  case refine_2 =>
    rw [planEntriesOf_eq_some]
    simp only [planEntryOf_eq_some]
    rfl
  intro p start count c u running carries target offers
  have taken := request_stream (gap := gap) (handle := handleWritePlan) carries target offers rfl
  refine ⟨fun bad => taken.trans (next_finish (if_pos bad)), fun low high => ?_⟩
  have counted : ¬(count = 0 ∨ 64 < count) := by omega
  refine ⟨fun out => taken.trans (next_finish ((if_neg counted).trans (if_pos out))), fun inside => ?_⟩
  have bounded : ¬c.planLength < start + count := by omega
  have judged := taken.trans (next_finish ((if_neg counted).trans (if_neg bounded)))
  refine ⟨fun none => judged.trans (next_finish (withValue_of_none none)), fun l entries => ?_⟩
  have read := judged.trans (next_finish (withValue_of_some entries))
  exact ⟨fun touched => read.trans (next_finish (if_pos ((touchesRunning_iff s _ _).2 touched))), fun free => ⟨_,
    read.trans (next_finish (if_neg fun touched => free ((touchesRunning_iff s _ _).1 touched))),
    writeEntries_get _ l s.plan⟩⟩

end Sys2Proof.Machine
end

section
/-! PROOFS. What the reading requests return (O32) and SNAPSHOT (O31). -/

namespace Sys2Proof.Machine

/-! ## Codings -/

theorem be8_centerCode (c : CenterId) : be8 (centerCode c) = match c with | .c0 => [0] | .c1 => [1] := by
  cases c <;> rfl

theorem be8_inputCode (i : InputId) : be8 (inputCode i) = match i with | .a => [0] | .b => [1] := by
  cases i <;> rfl

theorem beGridOr_eq (t : Option GridTime) : beGridOr t = match t with
    | some t => be32 t.sec ++ be32 t.ns
    | none => [0xFF, 0xFF, 0xFF, 0xFF, 0xFF, 0xFF, 0xFF, 0xFF] := by
  cases t <;> rfl

theorem beTimer_eq (now : Nat) (e : Option Nat) : beTimer now e = match e with
    | some e => be32 ((999999 + (e - now)) / 1000000)
    | none => [0xFF, 0xFF, 0xFF, 0xFF] := by
  cases e <;> rfl

theorem be8_returnCode (r : Option ReturnState) : be8 (returnCode r) =
    be8 (match r with | some .acquiring => 2 | some .held => 3 | some .admitted => 4 | none => 255) := by
  cases r with
  | none => rfl
  | some r => cases r <;> rfl

theorem beUp_eq (up : Bool) : beUp up = if up then [0] else [1] := rfl

theorem windowBytes_eq (w : Window) : windowBytes w =
    be8 (match w.state with | .notUsed => 0 | .opened => 1 | .ready _ => 2 | .closed _ => 3) ++ be16 w.awaited.length ++
      (match w.deadline with
        | some t => be32 t.sec ++ be32 t.ns
        | none => [0xFF, 0xFF, 0xFF, 0xFF, 0xFF, 0xFF, 0xFF, 0xFF]) ++
      be8 (match w.state with | .closed c => c.code | .notUsed => 255 | .opened => 255 | .ready _ => 255) ++
      be16 w.late := by
  rw [← beGridOr_eq]
  rfl

/-! ## The windows of a stream, counted -/

theorem openCount_eq (s : State) (k : StreamNo) : openCount s k = s.timeline.countP (fun q => match q.windows[k].state with
    | .opened => true | .ready _ => false | .notUsed => false | .closed _ => false) := by
  rw [openCount]
  congr 1
  funext q
  cases q.windows[k].state <;> rfl

theorem readyCount_eq (s : State) (k : StreamNo) : readyCount s k = s.timeline.countP (fun q => match q.windows[k].state with
    | .opened => false | .ready _ => true | .notUsed => false | .closed _ => false) := by
  rw [readyCount]
  congr 1
  funext q
  unfold Window.waiting
  cases q.windows[k].state <;> rfl

theorem waiting_eq (w : Window) : w.waiting = match w.state with
    | .opened => true | .ready _ => true | .notUsed => false | .closed _ => false := rfl

theorem be8_streamState (x : StreamState) :
    be8 x.code = be8 (match x with | .stopped => 0 | .running => 1 | .draining => 2) := by
  cases x <;> rfl

theorem modeBytes_eq (m : TimebaseMode) : modeBytes m = match m with
    | .free => [0, 0xFF]
    | .locked i => [1] ++ be8 (inputCode i)
    | .holdover => [2, 0xFF] := by
  cases m <;> rfl

theorem inputBytes_eq (x : RefInput) : inputBytes x = be8 x.qual.code ++ be8 x.goodSeconds ++
    (match x.lastSecond with | some l => [1] ++ be32 l | none => [0, 0, 0, 0, 0]) ++ be8 x.missed ++
    beFlag x.message.isSome ++ be16 x.glitches ++ be16 x.messageErrors := by
  rw [inputBytes]
  cases x.lastSecond <;> rfl

/-! ## READ_TIMELINE -/

section
variable {gap : Nat} {r : Request} {s : State} (offers : s.offers r)
include offers

theorem readTimeline_summary (carries : requestCarries r 19 0) : exec (.readTimeline gap r) s =
    .next (finish (answerRequest r .ok (timelineSummary s ++ be8 0) (s.taken gap))) :=
  request_carried (handle := handleReadTimeline) (act := fun _ s => answerRequest r .ok (timelineSummary s ++ markBytes s none) s)
    carries offers (if_pos carries.2.2.1) |>.trans (next_finish rfl)

theorem readTimeline_instant (carries : requestCarries r 19 8) : exec (.readTimeline gap r) s =
    .next (finish (withValue r (gridAt (r.delivered.take 8) 0) (fun t s => answerRequest r .ok
      (timelineSummary s ++ markBytes s (some t)) s) (s.taken gap))) := by
  obtain ⟨-, -, length, -⟩ := id carries
  have longer : r.payloadLength ≠ 0 := by omega
  exact (request_carried (handle := handleReadTimeline) carries offers (if_neg longer)).trans (next_finish rfl)

end

/-! ## The requests -/

theorem portBytes_line (s : State) {l : LineId} {target : Nat} (h : target = l.val) :
    portBytes s target = some (lineBytes (s.line l)) := by
  subst h
  exact dif_pos l.isLt

theorem portBytes_center (s : State) {c : CenterId} {target : Nat} (h : target = 4 + centerCode c) :
    portBytes s target = some (centerBytes s c) := by
  subst h
  cases c <;> rfl

theorem centerBytes_taken (s : State) (gap : Nat) (c : CenterId) : centerBytes (s.taken gap) c = centerBytes s c := by
  rw [centerBytes, State.taken_center]
  rfl

/-- Settles O32: each reading request answers its bytes, and the bytes of each table are its fields in order. -/
theorem readRequestsChangeNothing : Obligations.ReadRequestsChangeNothing := by
  refine ⟨fun gap r s offers => ?requests, fun g c now x l r s k center => ?bytes⟩
  case requests =>
    refine ⟨fun carries => ?_, fun carries => ?_, fun n carries target => ?_, fun k carries target => ?_,
      fun k carries target => ?plan, fun carries => ?_, fun carries => ?timeline, fun carries => ?_,
      fun l carries target => ?_, fun c carries target => ?_⟩
    case plan =>
      have taken := request_stream (gap := gap) (handle := handleReadPlan) carries target offers rfl
      refine ⟨fun bad => taken.trans (next_finish (if_pos bad)), fun low high out => ?_, fun low high inside => ?_⟩
      · exact taken.trans (next_finish ((if_neg (by omega)).trans (if_pos out)))
      · exact taken.trans (next_finish ((if_neg (by omega)).trans (if_neg (Nat.not_lt.2 inside))))
    case timeline =>
      have taken := readTimeline_instant (gap := gap) offers carries
      refine ⟨fun valid => taken.trans (next_finish ((withValue_of_some (if_pos valid)).trans ?_)), fun out => taken.trans
        (next_finish (withValue_of_none (if_neg (Nat.not_lt.2 out))))⟩
      rw [markBytes, recordAt_taken]
      rfl
    · exact (request_carried (handle := handleIdentify) carries offers rfl).trans (next_finish rfl)
    · exact (request_carried (handle := handleReadGlobal) carries offers rfl).trans (next_finish rfl)
    · exact (request_station (handle := handleReadStation) carries target offers rfl).trans (next_finish rfl)
    · exact (request_stream (handle := handleReadStream) carries target offers rfl).trans (next_finish rfl)
    · exact readTimeline_summary offers carries
    · exact (request_carried (handle := handleReadTimebase) carries offers rfl).trans (next_finish rfl)
    · refine (request_carried (handle := handleReadPort) carries offers rfl).trans (next_finish ?_)
      rw [portBytes_line _ target]
      rfl
    · refine (request_carried (handle := handleReadPort) carries offers rfl).trans (next_finish ?_)
      rw [portBytes_center _ target, centerBytes_taken]
  case bytes =>
    intro flag up link input grid timer counters
    refine ⟨?_, ?_, ?_, ?_, fun e => ?_, ?_, ?_, ?_, ?_, ?_⟩
    · rw [globalsBytes, be8_centerCode, be8_centerCode] <;> rfl
    · delta stationConfigBytes
      simp only [beShape, bePer, List.append_assoc] <;> rfl
    · delta stationRunBytes
      rw [be8_returnCode, beGridOr_eq, beTimer_eq, beTimer_eq]
      cases x.pendingShape <;> rfl
    · delta streamBytes streamConfigBytes
      dsimp only
      rw [be8_centerCode, be8_streamState, openCount_eq, readyCount_eq, beGridOr_eq]
      simp only [List.append_assoc] <;> rfl
    · obtain ⟨n, selector⟩ := e
      cases selector <;> rfl
    · rw [timelineSummary, beGridOr_eq, beGridOr_eq] <;> rfl
    · rw [recordBytes]
      simp only [windowBytes_eq]
      cases r.cause <;> rfl
    · rw [timebaseBytes, beTimer_eq, be8_inputCode, inputBytes_eq, inputBytes_eq, modeBytes_eq]
      simp only [be8_inputCode] <;> rfl
    · rw [lineBytes]
      cases l.latchCode <;> rfl
    · rw [centerBytes]
      rfl

/-! ## SNAPSHOT -/

theorem be8_length (n : Nat) : (be8 n).length = 1 := rfl
theorem be16_length (n : Nat) : (be16 n).length = 2 := rfl
theorem be32_length (n : Nat) : (be32 n).length = 4 := rfl
theorem beFlag_length (b : Bool) : (beFlag b).length = 1 := by cases b <;> rfl
theorem beGrid_length (t : GridTime) : (beGrid t).length = 8 := rfl
theorem beCounters_length (p : PerCounter) : (beCounters p).length = 6 := rfl
theorem beTimer_length (now : Nat) (e : Option Nat) : (beTimer now e).length = 4 := by cases e <;> rfl

/-- Every SNAPSHOT extension has 32 bytes (Table 9-9). -/
theorem snapshotBytes_length (s : State) (x : SnapSubject) : (snapshotBytes s x).length = 32 := by
  cases x <;>
    simp only [snapshotBytes, List.length_append, be8_length, be16_length, be32_length, beFlag_length, beGrid_length,
      beCounters_length, beTimer_length]

theorem snapSubject_eq_some (kind target : Nat) (x : SnapSubject) : snapSubject kind target = some x ↔
    (∃ n : StationNo, kind = 1 ∧ target = n.val ∧ x = .station n) ∨
      (∃ k : StreamNo, kind = 3 ∧ target = k.val ∧ x = .stream k) ∨ kind = 4 ∧ x = .timebase := by
  unfold snapSubject
  constructor
  · intro h
    split at h
    case isTrue one =>
      obtain ⟨known, same⟩ := Option.dite_none_right_eq_some.1 h
      exact .inl ⟨_, one, rfl, (Option.some.inj same).symm⟩
    case isFalse =>
      split at h
      case isTrue three =>
        obtain ⟨known, same⟩ := Option.dite_none_right_eq_some.1 h
        exact .inr (.inl ⟨_, three, rfl, (Option.some.inj same).symm⟩)
      case isFalse =>
        obtain ⟨four, same⟩ := Option.ite_none_right_eq_some.1 h
        exact .inr (.inr ⟨four, (Option.some.inj same).symm⟩)
  · rintro (⟨n, rfl, rfl, rfl⟩ | ⟨k, rfl, rfl, rfl⟩ | ⟨rfl, rfl⟩)
    · exact dif_pos n.isLt
    · exact dif_pos k.isLt
    · rfl

/-- Settles O31, by the subject and the room in the Notice Queue. -/
theorem snapshotPushesOneNotice : Obligations.SnapshotPushesOneNotice := by
  refine ⟨fun gap r s carries offers => ?requests, snapSubject_eq_some, fun s n k => ?bytes⟩
  case requests =>
    intro u subject
    have taken := request_carried (gap := gap) (handle := handleSnapshot) carries offers rfl
    have known (x : SnapSubject) (h : subject = some x) : exec (.snapshot gap r) s = .next (finish
        (if u.notices.queue.length < Config.noticeCapacity
          then answerRequest r .ok [] (pushNotice (.snapshot x r.tag (snapshotBytes u x)) u) else refuse r .queueFull u)) :=
      taken.trans (next_finish (by rw [show snapSubject _ _ = some x from h]))
    exact ⟨fun h => taken.trans (next_finish (by rw [show snapSubject _ _ = none from h])),
      fun x h full => (known x h).trans (next_finish (if_neg (Nat.not_lt.2 full))),
      fun x h room => ⟨snapshotBytes_length u x, (known x h).trans (next_finish (if_pos room))⟩⟩
  case bytes =>
    intro timer c x y tb
    refine ⟨?_, ?_, ?_⟩
    · delta snapshotBytes
      dsimp only
      rw [be8_returnCode, beTimer_eq, beTimer_eq]
      simp only [beCounters, List.append_assoc] <;> rfl
    · delta snapshotBytes
      dsimp only
      rw [openCount_eq, readyCount_eq]
      simp only [beGrid, List.append_assoc] <;> rfl
    · delta snapshotBytes
      dsimp only
      rw [beTimer_eq]
      simp only [beGrid, List.append_assoc] <;> rfl

end Sys2Proof.Machine
end

section
/-! PROOFS. Chapter 1: the instants of a rate (O6), snapping (O7) and the due rule (O8). -/

namespace Sys2Proof.Machine

/-! ## Nominal times -/

theorem rate_le (rate : RateCode) : rate.rate ≤ 120 := by cases rate <;> decide

/-- The nominal time is the quotient, rounded down. -/
theorem nominalNs_mul {r : Nat} (pos : 0 < r) (k : Nat) :
    nominalNs r k * r ≤ 1000000000 * k ∧ 1000000000 * k < nominalNs r k * r + r := by
  rw [nominalNs, show Config.second = 1000000000 from rfl]
  exact ⟨Nat.div_mul_le_self _ _, Nat.lt_div_mul_add pos⟩

theorem nominalNs_mono (r : Nat) {j k : Nat} (h : j ≤ k) : nominalNs r j ≤ nominalNs r k :=
  Nat.div_le_div_right (Nat.mul_le_mul_left _ h)

theorem nominalNs_zero (r : Nat) : nominalNs r 0 = 0 := Nat.zero_div _

theorem nominalNs_self {r : Nat} (pos : 0 < r) : nominalNs r r = 1000000000 := Nat.mul_div_cancel _ pos

/-- Neighbouring nominal times are more than 8 ms apart. -/
theorem nominalNs_succ (rate : RateCode) (k : Nat) : nominalNs rate.rate k + 8000000 ≤ nominalNs rate.rate (k + 1) := by
  have low := nominalNs_mul (rate_pos rate) k
  have high := nominalNs_mul (rate_pos rate) (k + 1)
  have := rate_le rate
  by_contra close
  have : nominalNs rate.rate (k + 1) * rate.rate ≤ (nominalNs rate.rate k + 7999999) * rate.rate :=
    Nat.mul_le_mul_right _ (by omega)
  rw [Nat.add_mul] at this
  omega

/-- Nominal times rise strictly with the index. -/
theorem nominalNs_lt (rate : RateCode) {j k : Nat} (h : j < k) : nominalNs rate.rate j + 8000000 ≤ nominalNs rate.rate k :=
  (nominalNs_succ rate j).trans (nominalNs_mono _ h)

theorem nominalNs_lt_second (rate : RateCode) {k : Nat} (h : k < rate.rate) :
    nominalNs rate.rate k + 8000000 ≤ 1000000000 := by
  have := nominalNs_lt rate h
  rwa [nominalNs_self (rate_pos rate)] at this

theorem nominalNs_injective (rate : RateCode) {j k : Nat} (h : nominalNs rate.rate j = nominalNs rate.rate k) : j = k := by
  rcases Nat.lt_trichotomy j k with below | same | above
  · have := nominalNs_lt rate below
    omega
  · exact same
  · have := nominalNs_lt rate above
    omega

/-! ## Instants -/

theorem instantIndex_eq_some (rate : RateCode) (t : GridTime) (j : Nat) :
    instantIndex rate t = some j ↔ j < rate.rate ∧ t.ns = nominalNs rate.rate j := by
  rw [instantIndex]
  constructor
  · intro h
    exact ⟨List.mem_range.1 (List.mem_of_find?_eq_some h), (beq_iff_eq.1 (List.find?_some h :)).symm⟩
  · rintro ⟨inside, at_⟩
    cases found : (List.range rate.rate).find? (fun k => nominalNs rate.rate k == t.ns) with
    | none =>
      have := List.find?_eq_none.1 found j (List.mem_range.2 inside)
      exact absurd (beq_iff_eq.2 at_.symm) this
    | some k => rw [nominalNs_injective rate ((beq_iff_eq.1 (List.find?_some found :)).trans at_)]

theorem isInstant_iff (rate : RateCode) (t : GridTime) :
    isInstant rate t = true ↔ ∃ i < rate.rate, t.ns = nominalNs rate.rate i := by
  simp only [isInstant, Option.isSome_iff_exists, instantIndex_eq_some]

theorem gridValid_iff (t : GridTime) : gridValid t = true ↔ t.sec ≤ 4294967295 ∧ t.ns ≤ 999999999 := by
  rw [gridValid, Bool.and_eq_true, decide_eq_true_eq, decide_eq_true_eq]
  exact and_congr_right fun _ => Nat.lt_succ_iff

/-! ## The next instant (R6) -/

/-- The next instant in the same second: the first nominal time after the nanoseconds. -/
theorem nextInstant_cases (rate : RateCode) (t : GridTime) :
    (∃ k < rate.rate, nextInstant rate t = some ⟨t.sec, nominalNs rate.rate k⟩ ∧ t.ns < nominalNs rate.rate k ∧
        ∀ j < k, nominalNs rate.rate j ≤ t.ns) ∨
      (∀ j < rate.rate, nominalNs rate.rate j ≤ t.ns) ∧
        nextInstant rate t = if t.sec < 4294967295 then some ⟨t.sec + 1, 0⟩ else none := by
  unfold nextInstant
  split
  case h_1 k found =>
    obtain ⟨after, inside, least⟩ := List.find?_range_eq_some.1 found
    refine .inl ⟨k, List.mem_range.1 inside, rfl, of_decide_eq_true after, fun j below => ?_⟩
    simpa using least j below
  case h_2 none =>
    refine .inr ⟨fun j inside => ?_, rfl⟩
    have := List.find?_eq_none.1 none j (List.mem_range.2 inside)
    simpa using this

theorem earlier_eq_false {a b : GridTime} : earlier a b = false ↔ b.sec < a.sec ∨ b.sec = a.sec ∧ b.ns ≤ a.ns := by
  rw [← Bool.not_eq_true, earlier_iff]
  omega

/-- The next instant is a grid time and an instant, later than the time, and no instant lies between (R6). -/
theorem nextInstant_some {rate : RateCode} {t u : GridTime} (valid : gridValid t = true) (h : nextInstant rate t = some u) :
    gridValid u = true ∧ isInstant rate u = true ∧ earlier t u = true ∧
      ∀ v, gridValid v = true → isInstant rate v = true → earlier t v = true → earlier v u = false := by
  obtain ⟨sec, ns⟩ := (gridValid_iff t).1 valid
  rcases nextInstant_cases rate t with ⟨k, inside, next, after, least⟩ | ⟨past, next⟩
  · obtain rfl := Option.some.inj (next.symm.trans h)
    have := nominalNs_lt_second rate inside
    refine ⟨(gridValid_iff _).2 ⟨sec, by dsimp only; omega⟩, (isInstant_iff _ _).2 ⟨k, inside, rfl⟩,
      earlier_iff.2 (.inr ⟨rfl, after⟩), fun v _ instant later => earlier_eq_false.2 ?_⟩
    obtain ⟨i, -, at_⟩ := (isInstant_iff _ _).1 instant
    rcases earlier_iff.1 later with sec | ⟨sec, ns⟩
    · exact .inl sec
    · refine .inr ⟨sec, ?_⟩
      have : k ≤ i := by
        by_contra below
        have := least i (by omega)
        omega
      rw [at_]
      exact nominalNs_mono _ this
  · rw [next, Option.ite_none_right_eq_some] at h
    obtain ⟨last, same⟩ := h
    obtain rfl := Option.some.inj same
    refine ⟨(gridValid_iff _).2 ⟨by dsimp only; omega, Nat.zero_le _⟩, (isInstant_iff _ _).2 ⟨0, rate_pos rate,
      (nominalNs_zero _).symm⟩, earlier_iff.2 (.inl (Nat.lt_succ_self _)), fun v _ instant later => earlier_eq_false.2 ?_⟩
    obtain ⟨i, inside, at_⟩ := (isInstant_iff _ _).1 instant
    have := past i inside
    have := earlier_iff.1 later
    dsimp only
    omega

/-- There is no next instant exactly when no instant is later. -/
theorem nextInstant_none {rate : RateCode} {t : GridTime} (valid : gridValid t = true) : nextInstant rate t = none ↔
    ∀ v, gridValid v = true → isInstant rate v = true → earlier t v = false := by
  constructor
  · intro none v known instant
    rcases nextInstant_cases rate t with ⟨k, -, next, -⟩ | ⟨past, next⟩
    · rw [next] at none
      cases none
    · have last : ¬t.sec < 4294967295 := fun before => by
        rw [next, if_pos before] at none
        cases none
      obtain ⟨i, inside, at_⟩ := (isInstant_iff _ _).1 instant
      have := past i inside
      have := (gridValid_iff v).1 known
      exact earlier_eq_false.2 (by omega)
  · intro all
    cases h : nextInstant rate t with
    | none => rfl
    | some u =>
      obtain ⟨known, instant, later, -⟩ := nextInstant_some valid h
      exact absurd later (Bool.eq_false_iff.1 (all u known instant))

/-- Settles O6, by the first nominal time after the nanoseconds, or the next second. -/
theorem nextInstantIsTheEarliestLater : Obligations.NextInstantIsTheEarliestLater :=
  ⟨fun _ _ valid => ⟨fun _ => nextInstant_some valid, nextInstant_none valid⟩, isInstant_iff,
    fun a _ => ⟨gridValid_iff a, earlier_iff, rfl⟩, rfl⟩

/-! ## Snapping (R7, R8) -/

/-- The rounded index of a time near a nominal time is the nominal time's index. -/
theorem snapIndex_near {rate : RateCode} {i ns : Nat} (below : ns ≤ nominalNs rate.rate i + 500000)
    (above : nominalNs rate.rate i ≤ ns + 500000) : snapIndex rate.rate ns = i := by
  have := nominalNs_mul (rate_pos rate) i
  have := rate_le rate
  have high := Nat.mul_le_mul_right rate.rate below
  have low := Nat.mul_le_mul_right rate.rate above
  rw [Nat.add_mul] at high low
  rw [snapIndex, show Config.second = 1000000000 from rfl]
  omega

theorem snapIndex_le (rate : RateCode) {ns : Nat} (h : ns < 1000000000) : snapIndex rate.rate ns ≤ rate.rate := by
  have := Nat.mul_le_mul_right rate.rate (Nat.le_of_lt h)
  rw [snapIndex, show Config.second = 1000000000 from rfl]
  omega

theorem snap_eq (rate : RateCode) (tolerance : Nat) (tag : GridTime) : snap rate tolerance tag =
    if snapDistance rate.rate tag.ns ≤ 1000 * tolerance then
      if snapIndex rate.rate tag.ns < rate.rate then some ⟨tag.sec, nominalNs rate.rate (snapIndex rate.rate tag.ns)⟩
      else if tag.sec < 4294967295 then some ⟨tag.sec + 1, 0⟩ else none
    else none := rfl

theorem snapDistance_le_iff (r ns d : Nat) : snapDistance r ns ≤ d ↔
    ns ≤ nominalNs r (snapIndex r ns) + d ∧ nominalNs r (snapIndex r ns) ≤ ns + d := by
  unfold snapDistance
  dsimp only
  split <;> omega

/-- How near two grid times are, in seconds and nanoseconds. -/
theorem diffNs_le_iff (a b : GridTime) (d : Nat) : (diffNs a b).natAbs ≤ d ↔
    1000000000 * a.sec + a.ns ≤ 1000000000 * b.sec + b.ns + d ∧ 1000000000 * b.sec + b.ns ≤ 1000000000 * a.sec + a.ns + d := by
  rw [diffNs, gridNs, gridNs, show Config.second = 1000000000 from rfl]
  omega

theorem snap_sound {rate : RateCode} {tolerance : Nat} {tag u : GridTime} (valid : gridValid tag = true)
    (h : snap rate tolerance tag = some u) :
    gridValid u = true ∧ isInstant rate u = true ∧ (diffNs tag u).natAbs ≤ 1000 * tolerance := by
  obtain ⟨sec, ns⟩ := (gridValid_iff tag).1 valid
  rw [snap_eq, Option.ite_none_right_eq_some, snapDistance_le_iff] at h
  obtain ⟨near, h⟩ := h
  split at h
  case isTrue inside =>
    obtain rfl := Option.some.inj h
    have := nominalNs_lt_second rate inside
    exact ⟨(gridValid_iff _).2 ⟨sec, by dsimp only; omega⟩, (isInstant_iff _ _).2 ⟨_, inside, rfl⟩,
      (diffNs_le_iff _ _ _).2 (by dsimp only; omega)⟩
  case isFalse outside =>
    rw [Option.ite_none_right_eq_some] at h
    obtain ⟨last, same⟩ := h
    obtain rfl := Option.some.inj same
    have full : snapIndex rate.rate tag.ns = rate.rate :=
      Nat.le_antisymm (snapIndex_le rate (by omega)) (Nat.not_lt.1 outside)
    rw [full, nominalNs_self (rate_pos rate)] at near
    exact ⟨(gridValid_iff _).2 ⟨by dsimp only; omega, Nat.zero_le _⟩, (isInstant_iff _ _).2 ⟨0, rate_pos rate,
      (nominalNs_zero _).symm⟩, (diffNs_le_iff _ _ _).2 (by dsimp only; omega)⟩

theorem snap_complete {rate : RateCode} {tolerance : Nat} {tag u : GridTime} (valid : gridValid tag = true)
    (small : tolerance ≤ 500) (known : gridValid u = true) (instant : isInstant rate u = true)
    (near : (diffNs tag u).natAbs ≤ 1000 * tolerance) : snap rate tolerance tag = some u := by
  obtain ⟨sec, ns⟩ := (gridValid_iff tag).1 valid
  obtain ⟨sec', ns'⟩ := (gridValid_iff u).1 known
  obtain ⟨i, inside, at_⟩ := (isInstant_iff rate u).1 instant
  rw [diffNs_le_iff] at near
  have top := nominalNs_lt_second rate inside
  by_cases same : u.sec = tag.sec
  · have index : snapIndex rate.rate tag.ns = i := snapIndex_near (by omega) (by omega)
    have close : snapDistance rate.rate tag.ns ≤ 1000 * tolerance :=
      (snapDistance_le_iff _ _ _).2 (by rw [index]; omega)
    rw [snap_eq, if_pos close, index, if_pos inside, ← same, ← at_]
  · have next : u.sec = tag.sec + 1 := by omega
    have zero : i = 0 := by
      by_contra later
      have := nominalNs_lt rate (Nat.pos_of_ne_zero later)
      omega
    rw [zero, nominalNs_zero] at at_
    have full := nominalNs_self (rate_pos rate)
    have index : snapIndex rate.rate tag.ns = rate.rate := snapIndex_near (by omega) (by omega)
    have close : snapDistance rate.rate tag.ns ≤ 1000 * tolerance :=
      (snapDistance_le_iff _ _ _).2 (by rw [index]; omega)
    rw [snap_eq, if_pos close, index, if_neg (Nat.lt_irrefl _), if_pos (by omega), ← next, ← at_]

/-- Settles O7: within the tolerance of 500 us there is at most one instant, the one of the rounded index. -/
theorem snapFindsTheInstantWithinTolerance : Obligations.SnapFindsTheInstantWithinTolerance :=
  fun _ _ _ valid small _ => ⟨snap_sound valid, fun ⟨known, instant, near⟩ => snap_complete valid small known instant near⟩

/-! ## The due rule (R9) -/

/-- Instants of two rates fall together exactly when their indices stand in the ratio of the rates. -/
theorem nominalNs_eq_iff (a b : RateCode) (i j : Nat) :
    nominalNs a.rate i = nominalNs b.rate j ↔ i * b.rate = j * a.rate := by
  have common : nominalNs a.rate i = 1000000000 * (i * b.rate) / (a.rate * b.rate) ∧
      nominalNs b.rate j = 1000000000 * (j * a.rate) / (a.rate * b.rate) := by
    rw [← Nat.mul_assoc, ← Nat.mul_assoc, Nat.mul_div_mul_right _ _ (rate_pos b), Nat.mul_comm a.rate b.rate,
      Nat.mul_div_mul_right _ _ (rate_pos a)]
    exact ⟨rfl, rfl⟩
  have pos : 0 < a.rate * b.rate := Nat.mul_pos (rate_pos a) (rate_pos b)
  have few : a.rate * b.rate ≤ 120 * 120 := Nat.mul_le_mul (rate_le a) (rate_le b)
  rw [common.1, common.2]
  refine ⟨fun same => ?_, fun same => by rw [same]⟩
  have := Nat.div_mul_le_self (1000000000 * (i * b.rate)) (a.rate * b.rate)
  have := Nat.lt_div_mul_add (a := 1000000000 * (i * b.rate)) pos
  have := Nat.div_mul_le_self (1000000000 * (j * a.rate)) (a.rate * b.rate)
  have := Nat.lt_div_mul_add (a := 1000000000 * (j * a.rate)) pos
  rw [same] at *
  omega

/-- A station is due at an instant of a stream exactly when it is an instant of the station's rate too. -/
theorem isDue_iff_isInstant {station stream : RateCode} {t : GridTime} {j : Nat} (index : instantIndex stream t = some j) :
    j * station.rate % stream.rate = 0 ↔ isInstant station t = true := by
  obtain ⟨inside, at_⟩ := (instantIndex_eq_some stream t j).1 index
  rw [isInstant_iff]
  constructor
  · intro divides
    have whole : j * station.rate / stream.rate * stream.rate = j * station.rate :=
      Nat.div_mul_cancel (Nat.dvd_of_mod_eq_zero divides)
    refine ⟨j * station.rate / stream.rate, ?_, ?_⟩
    · rw [Nat.div_lt_iff_lt_mul (rate_pos stream), Nat.mul_comm station.rate]
      exact Nat.mul_lt_mul_of_pos_right inside (rate_pos station)
    · rw [at_]
      exact ((nominalNs_eq_iff _ _ _ _).2 whole).symm
  · rintro ⟨i, -, same⟩
    rw [← (nominalNs_eq_iff station stream i j).1 (same.symm.trans at_)]
    exact Nat.mul_mod_left _ _

/-- Settles O8, by the indices of the instant in the two rates. -/
theorem dueExactlyAtSharedInstants : Obligations.DueExactlyAtSharedInstants := by
  refine ⟨fun station stream t j index => ?_, instantIndex_eq_some⟩
  have due : isDue station stream t = true ↔ (j * station.rate) % stream.rate = 0 := by
    rw [isDue, index]
    exact beq_iff_eq
  exact ⟨due, due.trans (isDue_iff_isInstant index)⟩

end Sys2Proof.Machine
end

section
/-! PROOFS. Receptions on the links (O9, O10), link states (O11) and the turns of the Report Intake (O12). -/

namespace Sys2Proof.Machine

/-! ## Numbers and frames -/

theorem be32_eq (n : Nat) : be32 n =
    [BitVec.ofNat 8 (n / 16777216), BitVec.ofNat 8 (n / 65536), BitVec.ofNat 8 (n / 256), BitVec.ofNat 8 n] := by
  rw [be32, be16, be16, Nat.div_div_eq_div_mul]
  rfl

theorem frameOk_iff (bytes : List Byte) : frameOk bytes = true ↔ 14 ≤ bytes.length ∧ bytes.length ≤ 2048 ∧
    bytes.drop (bytes.length - 4) = be32 (checkValue (bytes.take (bytes.length - 4))) := by
  rw [frameOk, Bool.and_eq_true, Bool.and_eq_true, decide_eq_true_eq, decide_eq_true_eq, beq_iff_eq, and_assoc, frameCheck_eq]

/-! ## Line links -/

theorem lineReceived_down {l : LineId} {s : State} (down : (s.line l).up = false) (bytes : List Byte) :
    lineReceived l bytes s = s := by
  rw [lineReceived, down]
  rfl

theorem lineReceived_failed {l : LineId} {s : State} {bytes : List Byte} (up : (s.line l).up = true)
    (fails : frameOk bytes = false) : lineReceived l bytes s = s.setLine l { s.line l with
      received := satInc (s.line l).received, checkFailures := satInc (s.line l).checkFailures } := by
  simp [lineReceived, up, fails]

theorem lineReceived_passed {l : LineId} {s : State} {bytes : List Byte} (up : (s.line l).up = true)
    (passes : frameOk bytes = true) : lineReceived l bytes s =
      classifyLine l bytes (s.setLine l { s.line l with received := satInc (s.line l).received }) := by
  simp [lineReceived, up, passes]

section
variable {l : LineId} {s : State} {bytes : List Byte} {x : LineLink}

theorem classifyLine_queued (transport : frameType bytes = s.globals.transportType) (room : x.queue.length < 32) :
    classifyLine l bytes (s.setLine l x) = s.setLine l { x with queue := x.queue ++ [⟨bytes, s.localTime⟩] } := by
  simp [classifyLine, transport, room, Config.receiveCapacity]

theorem classifyLine_full (transport : frameType bytes = s.globals.transportType) (full : 32 ≤ x.queue.length) :
    classifyLine l bytes (s.setLine l x) = s.setLine l { x with queueDrops := satInc x.queueDrops } := by
  simp [classifyLine, transport, Nat.not_lt.2 full, Config.receiveCapacity, dropOnLine]

theorem classifyLine_passed (other : ¬frameType bytes = s.globals.transportType) (room : s.passThrough.length < 64) :
    classifyLine l bytes (s.setLine l x) = { s.setLine l x with passThrough := s.passThrough ++ [bytes] } := by
  simp [classifyLine, other, room, Config.passThroughCapacity]

theorem classifyLine_dropped (other : ¬frameType bytes = s.globals.transportType) (full : 64 ≤ s.passThrough.length) :
    classifyLine l bytes (s.setLine l x) = s.setLine l { x with queueDrops := satInc x.queueDrops } := by
  simp [classifyLine, other, Nat.not_lt.2 full, Config.passThroughCapacity, dropOnLine]

end

/-- Settles O9, by the frame's check, its type and the room in its queue. -/
theorem lineFrameIsQueuedPassedOrDropped : Obligations.LineFrameIsQueuedPassedOrDropped := by
  refine ⟨fun gap l bytes s => ?_, fun bytes => ⟨?_, rfl, rfl, rfl⟩⟩
  · intro u x transport
    refine ⟨fun down => next_finish (lineReceived_down (s := u) down bytes), fun up => ⟨fun fails =>
      next_finish (lineReceived_failed (s := u) up fails), fun passes own room => ?_, fun passes own full => ?_,
      fun passes other room => ?_, fun passes other full => ?_⟩⟩
    all_goals refine next_finish ((lineReceived_passed (s := u) up passes).trans ?_)
    · exact classifyLine_queued (s := u) own room
    · exact classifyLine_full (s := u) own full
    · exact classifyLine_passed (s := u) other room
    · exact classifyLine_dropped (s := u) other full
  · rw [frameOk_iff, be32_eq]

/-! ## Center links -/

section
variable {c : CenterId} {s : State} {bytes : List Byte}

theorem centerReceived_down (down : (s.center c).up = false) : centerReceived c bytes s = s := by
  rw [centerReceived, down]
  rfl

theorem centerReceived_failed (up : (s.center c).up = true) (fails : frameOk bytes = false) : centerReceived c bytes s =
    s.setCenter c { s.center c with
      received := satInc (s.center c).received, checkFailures := satInc (s.center c).checkFailures } := by
  simp [centerReceived, up, fails]

/-- A passing frame is a request that is let in, or is dropped (R170, R181). -/
theorem centerReceived_passed (up : (s.center c).up = true) (passes : frameOk bytes = true) : centerReceived c bytes s =
    if isRequestFrame s bytes && accepts s c bytes then
      { s.setCenter c { s.center c with received := satInc (s.center c).received } with
        inputQueue := s.inputQueue ++ [parseRequest c bytes] }
    else s.setCenter c { s.center c with received := satInc (s.center c).received, drops := satInc (s.center c).drops } := by
  have same (x : CenterLink) : isRequestFrame (s.setCenter c x) bytes = isRequestFrame s bytes := by simp [isRequestFrame]
  have accepted (x : CenterLink) : accepts (s.setCenter c x) c bytes = accepts s c bytes := by simp [accepts]
  simp [centerReceived, up, passes, same, accepted]

theorem isRequestFrame_iff : isRequestFrame s bytes = true ↔
    frameType bytes = s.globals.transportType ∧ numAt16 (frameContent bytes) 0 = 2 := by
  simp [isRequestFrame]

theorem accepts_iff : accepts s c bytes = true ↔ (match c with | .c0 => s.globals.mask0 | .c1 => s.globals.mask1) = true ∧
    16 ≤ (frameContent bytes).length ∧ (numAt32 (frameContent bytes) 4 = s.unitNumber ∨
      (numAt32 (frameContent bytes) 4 = 0 ∧ byteAt (frameContent bytes) 10 = 1)) ∧ s.inputQueue.length < 4 := by
  have mask : inMask s.globals c = match c with | .c0 => s.globals.mask0 | .c1 => s.globals.mask1 := by cases c <;> rfl
  simp [accepts, mask, requestUnit, parseRequest, Config.inputCapacity, and_assoc]

end

/-- Settles O10, by the frame's check and its acceptance. -/
theorem centerFrameIsAcceptedOrDropped : Obligations.CenterFrameIsAcceptedOrDropped := by
  intro gap c bytes s u x content request admitted
  have center : u.center c = s.center c := State.center_runClock s gap c
  have judged : (isRequestFrame u bytes && accepts u c bytes) = true ↔ request ∧ admitted := by
    rw [Bool.and_eq_true, isRequestFrame_iff, accepts_iff]
    exact Iff.rfl
  refine ⟨fun down => next_finish (centerReceived_down (s := u) (center ▸ down)), fun up => ?_⟩
  have up : (u.center c).up = true := center ▸ up
  refine ⟨fun fails => next_finish ?_, fun passes ok => next_finish ?_, fun passes bad => next_finish ?_⟩
  · rw [centerReceived_failed up fails, center]
  · refine (centerReceived_passed up passes).trans ((if_pos (judged.2 ok)).trans ?_)
    rw [center]
    rfl
  · refine (centerReceived_passed up passes).trans ((if_neg fun h => bad (judged.1 h)).trans ?_)
    rw [center]

/-! ## Link states -/

theorem pushNotice_setCenter (b : NoticeBody) (s : State) (c : CenterId) (x : CenterLink) :
    (pushNotice b s).setCenter c x = pushNotice b (s.setCenter c x) := by
  unfold pushNotice
  cases c <;> split <;> rename_i h <;> simp only [State.setCenter, h, if_true, if_false] <;> rfl

theorem setStreamRun_setCenter (s : State) (k : StreamNo) (r : StreamRun) (c : CenterId) (x : CenterLink) :
    (s.setStreamRun k r).setCenter c x = (s.setCenter c x).setStreamRun k r := by
  cases c <;> rfl

/-- A center link that transmits no set abandons its frame without a trace (R175). -/
theorem linkWentDown_frame {c : CenterId} {s : State} (h : txStream (s.center c).tx = none) :
    linkWentDown (.center c) s = s.setCenter c { s.center c with up := false, tx := none } := by
  have idle (none : (s.center c).tx = none) : linkWentDown (.center c) s = s.setCenter c { s.center c with up := false } := by
    simp [linkWentDown, abandon, none]
  cases tx : (s.center c).tx with
  | none =>
    rw [idle tx, ← tx]
  | some t =>
    rw [tx] at h
    cases t with
    | fragment k i d b => cases h
    | answer b | passThrough b | notices b => simp [linkWentDown, abandon, tx, setTx]

/-- The set that was in transmission leaves its queue (R175). -/
theorem linkWentDown_fragment {c : CenterId} {s : State} {k : StreamNo} {i d : Nat} {b : List Byte} {a : AlignedSet}
    {rest : List AlignedSet} (tx : (s.center c).tx = some (.fragment k i d b)) (queue : (s.stream k).run.queue = a :: rest) :
    linkWentDown (.center c) s = pushNotice (.setDiscarded k .link a.sequence)
      ((s.setCenter c { s.center c with up := false, tx := none }).setStreamRun k { (s.stream k).run with
        queue := rest, discarded := satInc (s.stream k).run.discarded }) := by
  simp [linkWentDown, abandon, tx, queue, discardSet, setTx, pushNotice_setCenter, setStreamRun_setCenter]

/-- Settles O11, by the link and what it transmits. -/
theorem linkStateChangesAndAbandonment : Obligations.LinkStateChangesAndAbandonment := by
  intro gap s u
  have center (c : CenterId) : u.center c = s.center c := State.center_runClock s gap c
  refine ⟨fun l => ⟨rfl, rfl⟩, fun c => next_finish ?_, fun c idle => next_finish ?_, fun c k i d b a rest tx queue =>
    next_finish ?_⟩
  · rw [← center]
    rfl
  · rw [← center] at idle ⊢
    exact linkWentDown_frame idle
  · rw [← center] at tx ⊢
    exact linkWentDown_fragment (s := u) tx queue

/-! ## The turns of the intake -/

/-- The link that is served is the first with a frame, from the one after the pointer on (R15). -/
theorem nextLine_eq_some {s : State} {i : Fin 4} (empty : ∀ j < i, (s.line (s.pointer + 1 + j)).queue = [])
    (some : (s.line (s.pointer + 1 + i)).queue ≠ []) : nextLine s = .some (s.pointer + 1 + i) := by
  have order : [s.pointer + 1, s.pointer + 2, s.pointer + 3, s.pointer] =
      (List.finRange 4).map (fun i => s.pointer + 1 + i) := by
    generalize s.pointer = p
    revert p
    decide
  rw [nextLine, order, List.find?_map]
  refine congrArg (Option.map _) (find?_finRange_eq_some.2 ⟨?_, fun j below => ?_⟩)
  · simpa using some
  · simpa using empty j below

theorem nextLine_eq_none {s : State} (empty : ∀ l, (s.line l).queue = []) : nextLine s = none := by
  simp [nextLine, empty]

/-- Settles O12, by the first queue with a frame. -/
theorem intakeServesLinesInTurn : Obligations.IntakeServesLinesInTurn := by
  refine fun gap s => ⟨fun i f rest empty here => next_finish ?_, fun empty => next_finish ?_⟩
  · have next : nextLine (s.runClock gap) = some (s.pointer + 1 + i) :=
      nextLine_eq_some (s := s.runClock gap) empty (by rw [State.line_runClock]; exact here ▸ List.cons_ne_nil f rest)
    have queue : ((s.runClock gap).line (s.pointer + 1 + i)).queue = f :: rest := here
    unfold intake
    rw [next]
    dsimp only
    rw [queue]
    rfl
  · rw [intake, nextLine_eq_none (s := s.runClock gap) empty]

end Sys2Proof.Machine
end

section
/-! PROOFS. The steps of a report: the form check (O13), the reports that end early (O14) and the hand-over of a good report
(O15). -/

namespace Sys2Proof.Machine

/-! ## The form check (R14, R17, R18) -/

theorem carriedCounts_eq_some (size P A p a : Nat) : carriedCounts size P A = some (p, a) ↔
    size = 8 * p + 4 * a ∧ ((p = P ∧ a ≤ A) ∨ (p < P ∧ a = 0)) := by
  unfold carriedCounts
  split
  · split
    · rw [Option.some.injEq, Prod.mk.injEq]
      omega
    · simp only [reduceCtorEq, false_iff]
      omega
  · split
    · rw [Option.some.injEq, Prod.mk.injEq]
      omega
    · simp only [reduceCtorEq, false_iff]
      omega

/-- The fields of a report whose body carries `carried.1` phasors and `carried.2` analogs (Table 9-3). -/
def reportOf (body : List Byte) (carried : Nat × Nat) : ParsedReport where
  code := numAt16 body 0
  shape := ⟨numAt16 body 2, byteAt body 4, byteAt body 5⟩
  tag := ⟨numAt32 body 8, numAt32 body 12⟩
  locked := byteAt body 6 == 0
  uncertainty := byteAt body 7 % 16
  status := BitVec.ofNat 16 (numAt16 body 24)
  frequency := wordAt body 16
  rocof := wordAt body 20
  phasors := (List.range carried.1).map fun i => (wordAt body (28 + 8 * i), wordAt body (32 + 8 * i))
  analogs := (List.range carried.2).map fun j => wordAt body (28 + 8 * carried.1 + 4 * j)

theorem phasors_reportOf (body : List Byte) (carried : Nat × Nat) : (reportOf body carried).phasors.length = carried.1 := by
  simp [reportOf]

theorem analogs_reportOf (body : List Byte) (carried : Nat × Nat) : (reportOf body carried).analogs.length = carried.2 := by
  simp [reportOf]

/-- The form check but for the value region (R17, R18). -/
def headOk (content body : List Byte) : Prop :=
  numAt16 content 0 = 1 ∧ numAt16 content 2 ≤ body.length ∧ 28 ≤ numAt16 content 2 ∧ numAt32 body 12 < 1000000000 ∧
    byteAt body 4 ≤ 32 ∧ byteAt body 5 ≤ 8

/-- A report is read exactly when its head and its value region pass the form check. -/
theorem parseReport_eq_some (bytes : List Byte) (p : ParsedReport) : parseReport bytes = some p ↔
    headOk (frameContent bytes) ((frameContent bytes).drop 4) ∧ ∃ carried,
      carriedCounts (numAt16 (frameContent bytes) 2 - 28) (byteAt ((frameContent bytes).drop 4) 4)
        (byteAt ((frameContent bytes).drop 4) 5) = some carried ∧ reportOf ((frameContent bytes).drop 4) carried = p := by
  delta parseReport headOk
  dsimp only
  generalize frameContent bytes = content
  generalize content.drop 4 = body
  rw [show Config.second = 1000000000 from rfl]
  split
  · simp only [reduceCtorEq, false_iff]
    rintro ⟨head, -⟩
    omega
  · split
    · simp only [reduceCtorEq, false_iff]
      rintro ⟨head, -⟩
      omega
    · rw [Option.map_eq_some_iff, and_iff_right (by omega)]
      rfl

theorem parseReport_eq_none (bytes : List Byte) : parseReport bytes = none ↔
    ¬ headOk (frameContent bytes) ((frameContent bytes).drop 4) ∨
      carriedCounts (numAt16 (frameContent bytes) 2 - 28) (byteAt ((frameContent bytes).drop 4) 4)
        (byteAt ((frameContent bytes).drop 4) 5) = none := by
  simp only [Option.eq_none_iff_forall_ne_some, ne_eq, parseReport_eq_some]
  constructor
  · intro none
    by_contra both
    push Not at both
    obtain ⟨head, carried, found⟩ := both
    exact none _ ⟨head, carried, found, rfl⟩
  · rintro (bad | none) p ⟨head, carried, found, -⟩
    · exact bad head
    · exact none carried found

theorem getElem?_map_range {α : Type} (f : Nat → α) {n i : Nat} (h : i < n) : ((List.range n).map f)[i]? = some (f i) := by
  rw [List.getElem?_map, List.getElem?_range h, Option.map_some]

theorem short_iff (p : ParsedReport) : p.short = true ↔
    p.phasors.length < p.shape.phasors ∨ p.analogs.length < p.shape.analogs := by
  rw [ParsedReport.short, Bool.or_eq_true, decide_eq_true_eq, decide_eq_true_eq]

/-- Settles O13, by the two parts of the form check. -/
theorem formCheckFindsTheMalformedReports : Obligations.FormCheckFindsTheMalformedReports := by
  refine ⟨carriedCounts_eq_some, fun bytes => (parseReport_eq_none bytes).trans ?malformed, fun bytes p parsed => ?fields,
    fun l i => ⟨rfl, rfl, rfl⟩⟩
  case malformed =>
    simp only [headOk, not_and_or, not_le, not_lt, ne_eq, or_assoc]
  case fields =>
    have read := (parseReport_eq_some bytes p).1 parsed
    generalize frameContent bytes = content at read ⊢
    obtain ⟨-, carried, counts, rfl⟩ := read
    have word (i : Nat) : BitVec.ofNat 32 (numAt32 (content.drop 4) i) = wordAt (content.drop 4) i := rfl
    dsimp only
    simp only [word, phasors_reportOf, analogs_reportOf, short_iff]
    refine ⟨rfl, rfl, rfl, beq_iff_eq, rfl, rfl, rfl, rfl, counts, ?_, ?_, Iff.rfl⟩
    · exact fun i h => getElem?_map_range _ h
    · exact fun j h => getElem?_map_range _ h

/-! ## Reports that end before the hand-over (R17, R19, R21, R22) -/

section
variable {l : LineId} {f : QueuedFrame} {s : State} {p : ParsedReport} {n : StationNo} {t : GridTime} {arrival : GridTime}

theorem unknownCodeEdge_set {code : Nat} (set : (s.line l).latchSet = true) : unknownCodeEdge l code s = s := if_pos set

theorem unknownCodeEdge_clear {code : Nat} (clear : (s.line l).latchSet = false) : unknownCodeEdge l code s =
    pushNotice (.unknownCode l code) (s.setLine l { s.line l with
      latchSet := true, latchCode := some code
      latchPending := if s.notices.queue.length < 256 then some s.notices.serial else none }) :=
  if_neg (Bool.eq_false_iff.1 clear)

theorem takeKnown_offGrid (same : p.shape = (s.station n).config.shape)
    (off : snap (s.station n).config.rate (s.station n).config.snapTol p.tag = none) :
    takeKnown n p arrival s = risingEdge n .offGrid (countStation n .reject s) := by
  simp only [takeKnown, same, ne_eq, not_true_eq_false, if_false, off]

theorem takeKnown_snapped (same : p.shape = (s.station n).config.shape)
    (on : snap (s.station n).config.rate (s.station n).config.snapTol p.tag = some t) :
    takeKnown n p arrival s = takeOnGrid n t p arrival s := by
  simp only [takeKnown, same, ne_eq, not_true_eq_false, if_false, on]

/-- The future check is skipped in FREE (R22). -/
theorem isFuture_iff : isFuture s t = true ↔
    s.timebase.mode ≠ .free ∧ earlier (addNs s.localTime (1000000 * s.globals.futureTolerance)) t = true := by
  rw [isFuture, Bool.and_eq_true, Bool.not_eq_true', beq_eq_false_iff_ne]

theorem takeOnGrid_future (h : isFuture s t = true) : takeOnGrid n t p arrival s = countStation n .reject s := if_pos h

theorem takeOnGrid_good (h : isFuture s t = false) : takeOnGrid n t p arrival s =
    if ((takeGoodReport n t (p.suspect (s.station n).config.quality) p.short arrival s).station n).run.state = .admitted then
      placement n t (p.stored (s.station n).config.quality)
        (takeGoodReport n t (p.suspect (s.station n).config.quality) p.short arrival s)
    else takeGoodReport n t (p.suspect (s.station n).config.quality) p.short arrival s := if_neg (Bool.eq_false_iff.1 h)

end

/-- Settles O14, by the step at which the report ends. -/
theorem reportsThatEndBeforeTheHandOver : Obligations.ReportsThatEndBeforeTheHandOver := by
  refine fun l f s => ⟨takeReport_malformed, fun p parsed => ⟨fun unknown => ⟨fun set => ?_, fun clear => ?_⟩,
    fun n known same => ⟨fun off => ?_, fun t on timed future => ?_⟩⟩⟩
  · exact (takeReport_unknown parsed unknown).trans (unknownCodeEdge_set set)
  · exact (takeReport_unknown parsed unknown).trans (unknownCodeEdge_clear clear)
  · exact (takeReport_known parsed known).trans (takeKnown_offGrid same off)
  · exact ((takeReport_known parsed known).trans (takeKnown_snapped same on)).trans
      (takeOnGrid_future (isFuture_iff.2 ⟨timed, future⟩))

/-! ## The hand-over (R12, R22-R25, R58) -/

theorem markSuspect_eq (n : StationNo) (suspect : Bool) (s : State) : markSuspect n suspect s =
    if suspect = true ∧ (s.station n).run.suspect = false then
      risingEdge n .suspectTime (s.setRun n { (s.station n).run with suspect := suspect })
    else s.setRun n { (s.station n).run with suspect := suspect } := by
  unfold markSuspect
  simp only [Bool.and_eq_true, Bool.not_eq_true']

theorem recordDelay_free {n : StationNo} {delay : Nat} {s : State} (free : s.timebase.mode = .free) :
    recordDelay n delay s = s := if_pos free

theorem recordDelay_timed {n : StationNo} {delay : Nat} {s : State} (timed : s.timebase.mode ≠ .free) :
    recordDelay n delay s =
      s.setRun n { (s.station n).run with curMax := max (s.station n).run.curMax (min delay 60000000) } := if_neg timed

theorem measuredDelay_eq (arrival instant : GridTime) :
    measuredDelay arrival instant = (gridNs arrival - gridNs instant) / 1000 := by
  rw [measuredDelay, diffNs]
  omega

/-- A rising edge leaves the suspect flag. -/
theorem risingEdge_suspect (n : StationNo) (c : Condition) (s : State) :
    ((risingEdge n c s).station n).run.suspect = (s.station n).run.suspect := by
  unfold risingEdge setLatch putLatch
  split
  · rfl
  · split
    · rfl
    · rw [pushNotice_station, State.station_setRun_same]

/-- Settles O15: the steps from the future check on, and within step 6 the parts of the hand-over. -/
theorem goodReportIsHandedOverAndPlacedIfAdmitted : Obligations.GoodReportIsHandedOverAndPlacedIfAdmitted := by
  refine ⟨fun l f s p n t parsed known same on now => ?_, fun n t suspect short arrival s => ?_⟩
  · intro suspect u
    have good : isFuture s t = false := by
      rw [← Bool.not_eq_true, isFuture_iff]
      rcases now with free | early
      · exact fun h => h.1 free
      · exact fun h => Bool.eq_false_iff.1 early h.2
    have taken := ((takeReport_known (l := l) parsed known).trans (takeKnown_snapped (arrival := f.arrival) same on)).trans
      (takeOnGrid_good good)
    exact ⟨fun admitted => taken.trans (if_pos admitted), fun other => taken.trans (if_neg other)⟩
  · intro run a b c delay
    have same : (run a).suspect = (run s).suspect := by
      cases short
      · rfl
      · exact risingEdge_suspect n .short s
    have marked : markSuspect n suspect a = c := by
      rw [markSuspect_eq, ← show (run a).suspect = _ from rfl, same]
    have timebase : c.timebase = s.timebase := by
      rw [← marked, (markSuspect_steady n suspect a).timebase]
      cases short
      · rfl
      · exact risingEdge_timebase s n .short
    have taken : takeGoodReport n t suspect short arrival s =
        advanceStation n t suspect (recordDelay n (measuredDelay arrival t) c) := by rw [← marked]; rfl
    rw [taken, ← timebase]
    exact ⟨fun free => by rw [recordDelay_free free], fun timed => by rw [recordDelay_timed timed, measuredDelay_eq]⟩

end Sys2Proof.Machine
end

section
/-! PROOFS. Placement (O16) and the entry of a placed report (O17). -/

namespace Sys2Proof.Machine

/-! ## Which streams want an instant (R26) -/

theorem anyStream_iff (p : StreamNo → Bool) : allStreams.any p = true ↔ ∃ k, p k = true := by
  rw [List.any_eq_true]
  exact ⟨fun ⟨k, _, h⟩ => ⟨k, h⟩, fun ⟨k, h⟩ => ⟨k, mem_allStreams k, h⟩⟩

theorem wants_iff (s : State) (k : StreamNo) (t : GridTime) : wants s k t = true ↔ (s.stream k).run.state = .running ∧
    isInstant (s.stream k).config.rate t = true ∧ earlier (s.stream k).run.floor t = true := by
  rw [wants, Bool.and_eq_true, Bool.and_eq_true, beq_iff_eq, and_assoc]

theorem hasPassed_iff (s : State) (k : StreamNo) (t : GridTime) : hasPassed s k t = true ↔
    ((s.stream k).run.state = .running ∨ (s.stream k).run.state = .draining) ∧
      isInstant (s.stream k).config.rate t = true ∧ earlier (s.stream k).run.floor t = false := by
  rw [hasPassed, Bool.and_eq_true, Bool.and_eq_true, Bool.or_eq_true, beq_iff_eq, beq_iff_eq, and_assoc, atOrBefore,
    Bool.not_eq_true']

theorem lateInRecord_iff (s : State) (r : Record) : lateInRecord s r = true ↔ ∃ k : StreamNo,
    (∃ c, r.windows[k].state = .closed c) ∨ (r.windows[k].state = .notUsed ∧ hasPassed s k r.instant = true) := by
  refine (anyStream_iff _).trans (exists_congr fun k => ?_)
  cases r.windows[k].state <;> simp

theorem newRecord_windows (s : State) (t : GridTime) (cause : CreationCause) (k : StreamNo) :
    (newRecord s t cause).windows[k] =
      if wants s k t then openedWindow s k ⟨t, cause, [], Vector.replicate 8 ⟨.notUsed, [], none, 0⟩⟩
      else ⟨.notUsed, [], none, 0⟩ := by
  refine (mapWindows_get _ _ k).trans ?_
  rw [show (Vector.replicate 8 Window.notUsed)[k] = ⟨.notUsed, [], none, 0⟩ from Vector.getElem_replicate ..]
  rfl

/-! ## The steps of a placement (R27-R30, R77, R79) -/

section
variable {n : StationNo} {t : GridTime} {p : Report} {s : State}

theorem placement_eq : placement n t p s = if (place n t p s).2
    then (place n t p (risingEdge n .late (countStation n .late s))).1 else (place n t p s).1 := rfl

/-- With a record there already or made now, creation goes on to the slot step. -/
theorem createAndPlace_wanted (none : recordAt s t = none) (wanted : anyWants s t = true) :
    createAndPlace n t p s = place n t p (createRecord t .arrival s) := by
  rw [createAndPlace, if_pos wanted]
  refine (place_found (recordAt_createRecord none .arrival) rfl ?_).symm
  rw [createRecord, length_insertRecord]
  omega

theorem place_unwanted (none : recordAt s t = none) (unwanted : anyWants s t = false) :
    place n t p s = (s, anyPassed s t) := by
  simp only [place, none, unwanted, Bool.not_false, if_true]

theorem place_room (none : recordAt s t = none) (wanted : anyWants s t = true) (room : s.timeline.length < 512) :
    place n t p s = place n t p (createRecord t .arrival s) := by
  rw [← createAndPlace_wanted none wanted]
  simp only [place, none, wanted, Bool.not_true, Bool.false_eq_true, if_false]
  exact if_pos room

theorem place_crowded (none : recordAt s t = none) (wanted : anyWants s t = true) (crowded : 512 ≤ s.timeline.length)
    {o : Record} {rest : List Record} (oldest : s.timeline = o :: rest) : place n t p s =
      if earlier o.instant t then createAndPlace n t p (forceClose o.instant s) else (storeDiscard s, false) := by
  have full : ¬ s.timeline.length < Config.recordCapacity := Nat.not_lt.2 crowded
  rw [oldest] at full
  simp only [place, none, wanted, Bool.not_true, Bool.false_eq_true, if_false, oldest, full]

theorem place_duplicate {r : Record} (found : recordAt s t = some r) (again : (arrivalOf r.arrivals n).isSome = true) :
    place n t p s = (countStation n .reject s, false) := by
  simp only [place, found, again, if_true]

theorem place_free {r : Record} (found : recordAt s t = some r) (new : arrivalOf r.arrivals n = none)
    (free : 0 < s.freeSlots) : place n t p s = (enterReport n t p s, lateInRecord s r) := by
  rw [place_found found new (Nat.lt_succ_self _), placeInRecord]
  simp only [found, free, if_true]

theorem place_full {r o : Record} {rest : List Record} (found : recordAt s t = some r) (new : arrivalOf r.arrivals n = none)
    (full : s.freeSlots = 0) (oldest : s.timeline = o :: rest) : place n t p s =
      if o.instant = t then (settleAll (storeDiscard s), false)
      else placeInRecord n t p s.timeline.length (forceClose o.instant s) := by
  have none : ¬ 0 < s.freeSlots := by omega
  rw [place_found found new (Nat.lt_succ_self _), placeInRecord]
  simp only [found, none, if_false, oldest]

/-- A slot step whose record has left counts the report late where a stream has passed its instant. -/
theorem placeInRecord_gone {fuel : Nat} (pos : 0 < fuel) (gone : recordAt s t = none) :
    placeInRecord n t p fuel s = (s, anyPassed s t) := by
  obtain ⟨fuel, rfl⟩ := Nat.exists_eq_add_one.2 pos
  simp only [placeInRecord, gone]

/-- A forced close changes no arrival map. -/
theorem arrivalOf_forceClose {i : GridTime} {r q : Record} (found : recordAt s t = some r)
    (after : recordAt (forceClose i s) t = some q) (new : arrivalOf r.arrivals n = none) :
    arrivalOf q.arrivals n = none := by
  obtain ⟨r', found', same⟩ := (forceClose_closes i s).arrivals t q after
  cases found.symm.trans found'
  rwa [same]

end

theorem recordAt_eq_some {s : State} (ok : StoreOk s) (t : GridTime) (r : Record) :
    recordAt s t = some r ↔ r ∈ s.timeline ∧ r.instant = t :=
  ⟨fun found => ⟨recordAt_mem found, recordAt_instant found⟩,
    fun ⟨mem, at_⟩ => at_ ▸ recordAt_of_mem (instants_nodup ok.ordered) mem⟩

/-- Settles O16, by the record of the instant and the room in Timeline and Report Store. -/
theorem placementFollowsTheRecordAndTheStore : Obligations.PlacementFollowsTheRecordAndTheStore := by
  refine ⟨fun s t => ⟨fun k => ⟨?_, ?_⟩, anyStream_iff _, anyStream_iff _, lateInRecord_iff s, fun cause =>
      ⟨rfl, rfl, rfl, newRecord_windows s t cause⟩⟩, fun _ _ _ _ => placement_eq,
    fun n t p s none => ⟨place_unwanted none, fun wanted room => ⟨place_room none wanted room,
      recordAt_createRecord none .arrival⟩, fun wanted crowded o rest oldest => ⟨fun before => ?before, fun after => ?after⟩⟩,
    fun n t p s r found => ⟨place_duplicate found, fun new free => place_free found new free,
      fun new full o rest oldest => ?full⟩,
    fun r l ordered new => ⟨insertRecord_ordered ordered new, fun q => mem_insertRecord⟩, fun s t r ok => recordAt_eq_some ok t r⟩
  · rw [wants_iff, isInstant_iff]
    rfl
  · rw [hasPassed_iff, isInstant_iff]
    rfl
  case before =>
    exact (place_crowded none wanted crowded oldest).trans (if_neg (Bool.eq_false_iff.1 (earlier_asymm before)))
  case after =>
    have step := (place_crowded (n := n) (p := p) none wanted crowded oldest).trans (if_pos after)
    have none := forceClose_none none o.instant
    refine ⟨fun unwanted => ?_, fun wanted => ⟨step.trans (createAndPlace_wanted none wanted), recordAt_createRecord none .arrival⟩⟩
    rw [step, createAndPlace, if_neg (Bool.eq_false_iff.1 unwanted)]
  case full =>
    have step := place_full (p := p) found new full oldest
    rw [oldest] at step
    refine ⟨fun own => step.trans (if_pos own), fun other => ⟨fun gone => ?_, fun q there => ?_⟩⟩
    · exact (step.trans (if_neg other)).trans (placeInRecord_gone (Nat.succ_pos _) gone)
    · have smaller := forceClose_room (recordAt_head oldest)
      rw [oldest] at smaller
      exact (step.trans (if_neg other)).trans (place_found there (arrivalOf_forceClose found there new) smaller).symm

/-! ## The entry of a report (R31-R33) -/

/-- The record of a report as the report enters it. -/
def Record.entered (s : State) (n : StationNo) (p : Report) (r : Record) : Record :=
  { r with arrivals := arrivalInsert n p r.arrivals }.mapWindows
    (fun k w => takeArrival (s.stream k).config.closeOnComplete n w)

/-- The state in which the windows that a report makes READY close. -/
def enteredState (n : StationNo) (t : GridTime) (p : Report) (s : State) : State :=
  modifyRecord t (Record.entered s n p) { s with freeSlots := s.freeSlots - 1 }

theorem enterReport_eq (n : StationNo) (t : GridTime) (p : Report) (s : State) :
    enterReport n t p s = settleAll (enteredState n t p s) := rfl

theorem entered_windows (s : State) (n : StationNo) (p : Report) (r : Record) (k : StreamNo) :
    (r.entered s n p).windows[k] = takeArrival (s.stream k).config.closeOnComplete n r.windows[k] := mapWindows_get _ _ k

section
variable {closeOnComplete : Bool} {n : StationNo} {w : Window}

theorem takeArrival_notUsed (h : w.state = .notUsed) : takeArrival closeOnComplete n w = w := by
  rw [takeArrival, h]

theorem takeArrival_closed {c : CloseCause} (h : w.state = .closed c) :
    takeArrival closeOnComplete n w = { w with late := satInc w.late } := by
  rw [takeArrival, h]

/-- A window that waits takes the arrival out of its awaited set. -/
theorem takeArrival_waiting (h : w.waiting = true) : takeArrival closeOnComplete n w = dropAwaited closeOnComplete n w := by
  unfold takeArrival
  unfold Window.waiting at h
  cases state : w.state with
  | opened => rfl
  | ready c => rfl
  | notUsed => simp [state] at h
  | closed c => simp [state] at h

theorem takeArrival_ready {c : ReadyCause} (h : w.state = .ready c) : (takeArrival closeOnComplete n w).state = .ready c := by
  rw [takeArrival_waiting (by rw [Window.waiting, h]), dropAwaited_eq, h]
  rfl

theorem takeArrival_opened (h : w.state = .opened) : (takeArrival closeOnComplete n w).state =
    if n ∈ w.awaited ∧ w.awaited.filter (· ≠ n) = [] ∧ closeOnComplete = true then .ready .complete else .opened := by
  rw [takeArrival_waiting (by rw [Window.waiting, h]), dropAwaited_eq, h]
  simp only [true_and]

theorem takeArrival_deadline : (takeArrival closeOnComplete n w).deadline = w.deadline := by
  unfold takeArrival
  split <;> rfl

end

/-- Settles O17: the records before the closes are an image of those before the entry. -/
theorem placedReportTakesASlotAndItsWindows : Obligations.PlacedReportTakesASlotAndItsWindows := by
  refine ⟨fun n t p s => ⟨enteredState n t p s, enterReport_eq n t p s, rfl, List.length_map _, fun i h h' => ?_⟩,
    fun n m p l rising => arrivalOf_arrivalInsert rising⟩
  have record : (enteredState n t p s).timeline[i] =
      if s.timeline[i].instant == t then s.timeline[i].entered s n p else s.timeline[i] := List.getElem_map ..
  refine ⟨fun other => ?_, fun own => ?_⟩
  · rw [record, beq_false_of_ne other]
    rfl
  · rw [record, own, beq_self_eq_true, if_pos rfl]
    refine ⟨own, rfl, rfl, fun k => ?_⟩
    rw [entered_windows]
    refine ⟨takeArrival_deadline, takeArrival_notUsed, fun c closed => takeArrival_closed closed, fun waiting => ?_,
      fun c ready => takeArrival_ready ready, takeArrival_opened⟩
    rw [takeArrival_waiting waiting, dropAwaited_eq]
    exact ⟨rfl, rfl⟩

end Sys2Proof.Machine
end

section
/-! PROOFS. The Notice Queue and its frames (O30). -/

namespace Sys2Proof.Machine

/-! ## Pushes and departures (R154, R160, R174) -/

theorem pushNotice_room {s : State} (b : NoticeBody) (room : s.notices.queue.length < 256) : pushNotice b s = { s with
    notices := ⟨s.notices.queue ++ [⟨s.notices.serial, s.localTime, b⟩], s.notices.overflow, s.notices.serial + 1⟩ } :=
  if_pos room

theorem pushNotice_full {s : State} (b : NoticeBody) (full : 256 ≤ s.notices.queue.length) :
    pushNotice b s = { s with notices := { s.notices with overflow := true } } := if_neg (Nat.not_lt.2 full)

section
variable {s : State} {serial : Nat} {time : GridTime} {n : StationNo} {c : Condition} {g : Sensitivity} {o : ConditionOrigin}

theorem depart_notPending (h : ((s.station n).run.latches.get c).pending ≠ some serial) :
    departNotice ⟨serial, time, .condition n c g o⟩ s = s := if_neg h

theorem depart_pending_edge (h : ((s.station n).run.latches.get c).pending = some serial)
    (edge : (s.station n).config.sens.get c = .edge) :
    departNotice ⟨serial, time, .condition n c g o⟩ s = putLatch n c ⟨false, none⟩ s :=
  (if_pos h).trans (by rw [edge]; rfl)

theorem depart_pending_level (h : ((s.station n).run.latches.get c).pending = some serial)
    (level : (s.station n).config.sens.get c = .level) : departNotice ⟨serial, time, .condition n c g o⟩ s =
      putLatch n c ⟨((s.station n).run.latches.get c).set, none⟩ s := (if_pos h).trans (by rw [level]; rfl)

end

/-- Only CONDITION and UNKNOWN_CODE notices act on a latch. -/
theorem depart_other (m : Notice) (s : State) (condition : ∀ n c g o, m.body ≠ .condition n c g o)
    (unknown : ∀ l code, m.body ≠ .unknownCode l code) : departNotice m s = s := by
  unfold departNotice
  split
  · rename_i n c g o body
    exact absurd body (condition n c g o)
  · rename_i l code body
    exact absurd body (unknown l code)
  all_goals rfl

/-! ## Bytes (Tables 9-6 to 9-8) -/

/-- The fixed fields of a notice record, then its detail and its extension. -/
theorem noticeBytes_eq (serial : Nat) (time : GridTime) (body : NoticeBody) : noticeBytes ⟨serial, time, body⟩ =
    (be8 body.head.1 ++ be8 body.head.2.1 ++ be16 body.head.2.2 ++ be32 time.sec ++ be32 time.ns) ++
      (body.detail ++ body.extension) := by
  rw [noticeBytes, beGrid]
  simp only [List.append_assoc]

/-- A record without an extension ends with its detail. -/
theorem noticeBytes_plain {serial : Nat} {time : GridTime} {body : NoticeBody} (plain : body.extension = []) :
    noticeBytes ⟨serial, time, body⟩ =
      (be8 body.head.1 ++ be8 body.head.2.1 ++ be16 body.head.2.2 ++ be32 time.sec ++ be32 time.ns) ++ body.detail := by
  rw [noticeBytes_eq, plain, List.append_nil]

section
variable (a b c d e : List Byte)

theorem append_three : a ++ (b ++ c ++ d) = a ++ b ++ c ++ d := by rw [← List.append_assoc, ← List.append_assoc]

theorem append_four : a ++ (b ++ c ++ d ++ e) = a ++ b ++ c ++ d ++ e := by
  rw [← List.append_assoc, append_three]

end

/-- Settles O30: the queue, the latches a departure acts on, and the bytes of each kind of notice. -/
theorem noticesJoinTheTailAndLeaveInFrames : Obligations.NoticesJoinTheTailAndLeaveInFrames := by
  refine ⟨fun s => ⟨fun b => pushNotice_room b, fun b => pushNotice_full b, fun c => rfl⟩,
    fun s serial time n c g o => ⟨depart_notPending, depart_pending_edge, depart_pending_level⟩,
    fun s serial time l code => ⟨fun other => if_neg other, fun pending => if_pos pending⟩, depart_other,
    fun l overflow => rfl, fun serial time n k i l tag v ms ext => ?bytes, by decide⟩
  case bytes =>
    intro fixed bytes
    have plain {body : NoticeBody} (h : body.extension = []) : bytes body =
        fixed body.head.1 body.head.2.1 body.head.2.2 ++ body.detail := noticeBytes_plain h
    refine ⟨fun old new c => (plain rfl).trans (append_four ..), fun c g => ⟨(plain rfl).trans (append_three ..),
        (plain rfl).trans (append_three ..)⟩, fun c => (plain rfl).trans (append_three ..),
      fun old new c => (plain rfl).trans (append_four ..), (plain rfl).trans (List.append_assoc ..).symm,
      (plain rfl).trans (List.append_assoc ..).symm, fun old new c => (plain rfl).trans (append_four ..), fun old new c => ?input,
      plain rfl, (plain rfl).trans (List.append_assoc ..).symm, ?_, ?_, ?_⟩
    case input => cases i <;> exact (plain rfl).trans (append_four ..)
    all_goals exact (noticeBytes_eq ..).trans (append_three ..)

end Sys2Proof.Machine
end

section
/-! PROOFS. A window's close (O45) and the room that a new set needs (O47). -/

namespace Sys2Proof.Machine

/-! ## Room in the Set Queue (R129) -/

section
variable {k : StreamNo} {s : State}

theorem inTransmission_iff : inTransmission s k = true ↔
    txStream (s.center .c0).tx = some k ∨ txStream (s.center .c1).tx = some k := by
  rw [inTransmission, Bool.or_eq_true, beq_iff_eq, beq_iff_eq]
  rfl

theorem makeRoom_room (room : (s.stream k).run.queue.length < 16) : makeRoom k s = s := if_pos room

theorem makeRoom_full {a b : AlignedSet} {rest : List AlignedSet} (queue : (s.stream k).run.queue = a :: b :: rest)
    (full : (s.stream k).run.queue.length = 16) : makeRoom k s =
      if inTransmission s k then discardSet k b .overrun (a :: rest) s else discardSet k a .overrun (b :: rest) s := by
  have crowded : ¬ (s.stream k).run.queue.length < Config.setQueueCapacity := Nat.not_lt.2 (Nat.le_of_eq full.symm)
  rw [queue] at crowded
  simp only [makeRoom, queue, crowded, if_false]

theorem discardSet_run (a : AlignedSet) (cause : DiscardCause) (rest : List AlignedSet) :
    ((discardSet k a cause rest s).stream k).run =
      { (s.stream k).run with queue := rest, discarded := satInc (s.stream k).run.discarded } := by
  rw [discardSet, pushNotice_stream, State.stream_setStreamRun_same]

theorem discardSet_other {j : StreamNo} (other : k ≠ j) (a : AlignedSet) (cause : DiscardCause) (rest : List AlignedSet) :
    (discardSet k a cause rest s).stream j = s.stream j := by
  rw [discardSet, pushNotice_stream, State.stream_setStreamRun_other _ _ other]

/-- Making room leaves the state as it is or discards one set. -/
theorem makeRoom_cases : makeRoom k s = s ∨ ∃ a rest, makeRoom k s = discardSet k a .overrun rest s := by
  unfold makeRoom
  split
  · exact .inl rfl
  · split
    · split
      · exact .inr ⟨_, _, rfl⟩
      · exact .inr ⟨_, _, rfl⟩
    · split
      · exact .inl rfl
      · exact .inr ⟨_, _, rfl⟩
    · exact .inl rfl

/-- Making room touches the queue and the discarded count of the stream, nothing else of its run state. -/
theorem makeRoom_run : ∃ queue discarded,
    ((makeRoom k s).stream k).run = { (s.stream k).run with queue := queue, discarded := discarded } := by
  rcases makeRoom_cases (k := k) (s := s) with same | ⟨a, rest, discard⟩
  · exact ⟨_, _, congrArg (fun t : State => (t.stream k).run) same⟩
  · exact ⟨_, _, (congrArg (fun t : State => (t.stream k).run) discard).trans (discardSet_run a .overrun rest)⟩

theorem makeRoom_other {j : StreamNo} (other : k ≠ j) : (makeRoom k s).stream j = s.stream j := by
  rcases makeRoom_cases (k := k) (s := s) with same | ⟨a, rest, discard⟩
  · rw [same]
  · rw [discard, discardSet_other other]

end

/-- Settles O47, by whether a link has the head set in transmission. -/
theorem overrunDiscardsTheOldestNotInTransmission : Obligations.OverrunDiscardsTheOldestNotInTransmission := by
  intro k s x discard
  refine ⟨makeRoom_room, fun a b rest queue full => ⟨fun idle0 idle1 => ?_, fun sending => ?_⟩⟩
  · exact (makeRoom_full queue full).trans (if_neg fun h => (inTransmission_iff.1 h).elim idle0 idle1)
  · exact (makeRoom_full queue full).trans (if_pos (inTransmission_iff.2 sending))

/-! ## The close of a window (R75, R92, R107) -/

theorem isEmpty_eq_decide {α : Type} [DecidableEq α] (l : List α) : l.isEmpty = decide (l = []) := by
  cases l <;> rfl

theorem anySuspect_eq (cells : List Cell) :
    cells.any (fun c => c.state == .suspect) = decide (∃ x ∈ cells, x.state = .suspect) := by
  rw [Bool.eq_iff_iff, List.any_eq_true, decide_eq_true_eq]
  simp only [beq_iff_eq]

theorem alignedSet_eq (s : State) (k : StreamNo) (r : Record) (w : Window) (cause : CloseCause) : alignedSet s k r w cause =
    { sequence := (s.stream k).run.nextSeq, instant := r.instant, cause := cause
      flags :=
        { complete := decide (w.awaited = []), timeHoldover := decide (s.timebase.mode = .holdover)
          timeFree := decide (s.timebase.mode = .free), discontinuity := (s.stream k).run.discontinuity
          suspectPresent := decide (∃ x ∈ (planSegment s (s.stream k).config).map
            (cellOf s (s.stream k).config.rate r.instant r.arrivals), x.state = .suspect) }
      cells := (planSegment s (s.stream k).config).map (cellOf s (s.stream k).config.rate r.instant r.arrivals) } := by
  rw [alignedSet]
  simp only [isEmpty_eq_decide, anySuspect_eq]
  rfl

/-- The built set, the floor and the mark in one change of the stream (R107 steps 2 and 3). -/
theorem setFloor_buildSet (k : StreamNo) (t : GridTime) (r : Record) (w : Window) (cause : CloseCause) (s : State) :
    setFloor k t (buildSet k r w cause s) = (makeRoom k s).setStreamRun k { ((makeRoom k s).stream k).run with
      queue := ((makeRoom k s).stream k).run.queue ++ [alignedSet s k r w cause]
      nextSeq := ((s.stream k).run.nextSeq + 1) % 4294967296, discontinuity := false
      built := satInc (s.stream k).run.built, floor := t, mark := laterOf (s.stream k).run.mark t } := by
  obtain ⟨queue, discarded, run⟩ := makeRoom_run (k := k) (s := s)
  rw [setFloor, buildSet]
  simp only [State.stream_setStreamRun_same, State.setStreamRun_setStreamRun, run]

theorem modifyRecord_setWindow (t : GridTime) (k : StreamNo) (w : Window) (s : State) :
    modifyRecord t (fun q => q.setWindow k w) s = { s with timeline := s.timeline.map (fun q =>
      if q.instant = t then { q with windows := q.windows.set k w } else q) } := by
  simp only [modifyRecord, Record.setWindow, beq_iff_eq]

theorem closeWindow_some {k : StreamNo} {t : GridTime} {cause : CloseCause} {s : State} {r : Record}
    (found : recordAt s t = some r) : closeWindow k t cause s =
      retireIfDone t (countMissing r.windows[k].awaited (setFloor k t (buildSet k r r.windows[k] cause
        (modifyRecord t (fun q => q.setWindow k { r.windows[k] with state := .closed cause }) s)))) := by
  rw [closeWindow, found]

theorem closeWindow_none {k : StreamNo} {t : GridTime} {cause : CloseCause} {s : State} (none : recordAt s t = none) :
    closeWindow k t cause s = s := by
  rw [closeWindow, none]

theorem record_waiting_iff (r : Record) : r.waiting = true ↔ ∃ k : StreamNo, r.windows[k].waiting = true := anyStream_iff _

theorem retireIfDone_none {t : GridTime} {s : State} (none : recordAt s t = none) : retireIfDone t s = s := by
  rw [retireIfDone, none]

theorem retireIfDone_some {t : GridTime} {s : State} {r : Record} (found : recordAt s t = some r) : retireIfDone t s =
    if r.waiting then s else { s with
      timeline := s.timeline.filter (fun q => !(q.instant == t)), freeSlots := s.freeSlots + r.arrivals.length } := by
  rw [retireIfDone, found]

theorem drainIfDone_done {k : StreamNo} {s : State} (draining : (s.stream k).run.state = .draining)
    (none : hasWaiting s k = false) : drainIfDone k s = stopStream k .drained s := by
  rw [drainIfDone, draining, none]
  rfl

theorem drainIfDone_stays {k : StreamNo} {s : State}
    (h : (s.stream k).run.state ≠ .draining ∨ hasWaiting s k = true) : drainIfDone k s = s := by
  refine if_neg fun done => ?_
  rw [Bool.and_eq_true, beq_iff_eq, Bool.not_eq_true'] at done
  rcases h with other | some
  · exact other done.1
  · exact Bool.eq_false_iff.1 done.2 some

/-- Settles O45: the close, the retirement and the end of a drain. -/
theorem closeBuildsMovesFloorAndCountsMissing : Obligations.CloseBuildsMovesFloorAndCountsMissing := by
  refine ⟨fun k cause s r found => ?close, fun t s => ⟨retireIfDone_none, fun q found => ⟨fun some => ?_, fun none => ?_⟩⟩,
    fun k s => ⟨drainIfDone_done, drainIfDone_stays⟩⟩
  case close =>
    intro c w cells set closed room x
    refine (closeWindow_some found).trans ?_
    rw [modifyRecord_setWindow, setFloor_buildSet, alignedSet_eq]
    rfl
  · exact (retireIfDone_some found).trans (if_pos ((record_waiting_iff q).2 some))
  · have idle : ¬ q.waiting = true := by
      rw [record_waiting_iff]
      exact fun ⟨k, waits⟩ => Bool.eq_false_iff.1 (none k) waits
    refine ((retireIfDone_some found).trans (if_neg idle)).trans ?_
    congr 2
    funext p
    by_cases h : p.instant = t <;> simp [h]

end Sys2Proof.Machine
end

section
/-! PROOFS. Streams: the start (O36), direct closes and FLUSH (O39), the entry to STOPPED and time steps (O40). -/

namespace Sys2Proof.Machine

/-! ## START_STREAM (R90, R91) -/

/-- A stream as START_STREAM leaves it before its windows open. -/
def streamStarted (k : StreamNo) (s : State) : State :=
  pushNotice (.streamState k (s.stream k).run.state .running .start)
    (s.setStreamRun k { (s.stream k).run with
      state := .running
      floor := laterOf (s.stream k).run.floor s.localTime
      mark := laterOf (s.stream k).run.mark (laterOf (s.stream k).run.floor s.localTime) })

theorem instants_streamStarted (k : StreamNo) (s : State) : instants (streamStarted k s) = s.timeline.map (·.instant) := by
  rw [instants, streamStarted, pushNotice_timeline]
  rfl

/-- The windows of a starting stream open at the instants of its rate after its floor (R91). -/
theorem startStream_eq (k : StreamNo) (s : State) : startStream k s =
    ((s.timeline.map (·.instant)).filter (fun t => isInstant (s.stream k).config.rate t &&
      earlier (laterOf (s.stream k).run.floor s.localTime) t)).foldl (fun v t => openIn k t v) (streamStarted k s) := by
  rw [List.foldl_filter, ← instants_streamStarted k s]
  rfl

theorem openIn_none {k : StreamNo} {t : GridTime} {s : State} (none : recordAt s t = none) : openIn k t s = s := by
  rw [openIn, none]

theorem openIn_some {k : StreamNo} {t : GridTime} {s : State} {q : Record} (found : recordAt s t = some q) :
    openIn k t s = settle k { s with timeline := s.timeline.map (fun r =>
      if r.instant = t then { r with windows := r.windows.set k (openedWindow s k q) } else r) } := by
  rw [openIn, found]
  simp only [modifyRecord, Record.setWindow, beq_iff_eq]

/-- Settles O36, by the state of the stream. -/
theorem startStreamSetsFloorAndMark : Obligations.StartStreamSetsFloorAndMark := by
  refine ⟨fun gap r s k carries target offers => ?_, fun k t s => ⟨openIn_none, fun q found => openIn_some found⟩⟩
  intro u x floor started
  have handled := request_stream (gap := gap) (handle := handleStartStream) carries target offers rfl
  rw [State.taken_stream] at handled
  have starts (stopped : x.state = .stopped) (known : s.timebase.timeKnown = true) :
      exec (.startStream gap r) s = .next (finish (answerRequest r .ok [] (startStream k u))) := by
    refine handled.trans (next_finish ?_)
    rw [stopped]
    exact if_pos known
  have same (stopped : x.state = .stopped) : streamStarted k u = started := by
    rw [streamStarted, show (u.stream k).run.state = .stopped from stopped]
    rfl
  refine ⟨fun stopped unknown => ?_, fun stopped known => ?_, fun stopped known empty => ?_, fun running => ?_, fun draining => ?_⟩
  · refine handled.trans (next_finish ?_)
    rw [stopped]
    exact if_neg (Bool.eq_false_iff.1 unknown)
  · rw [starts stopped known, startStream_eq, same stopped]
    rfl
  · rw [starts stopped known, startStream_eq, same stopped, show u.timeline = [] from empty]
    rfl
  · refine handled.trans (next_finish ?_)
    rw [running]
  · refine handled.trans (next_finish ?_)
    rw [draining]

/-! ## What closes and stops leave of the streams -/

/-- The states of the streams stay. -/
def SameStates (s t : State) : Prop := ∀ j, (t.stream j).run.state = (s.stream j).run.state

theorem SameStates.trans {s t u : State} (h : SameStates s t) (g : SameStates t u) : SameStates s u :=
  fun j => (g j).trans (h j)

theorem SameStates.of_stream {s t : State} (h : ∀ j, t.stream j = s.stream j) : SameStates s t := fun j => by rw [h j]

theorem setStreamRun_sameStates {k : StreamNo} {x : StreamRun} {s : State} (h : x.state = (s.stream k).run.state) :
    SameStates s (s.setStreamRun k x) := by
  intro j
  rw [State.stream_setStreamRun]
  split
  · next same => exact same ▸ h
  · rfl

theorem makeRoom_sameStates (k : StreamNo) (s : State) : SameStates s (makeRoom k s) := by
  intro j
  by_cases same : k = j
  · obtain ⟨queue, discarded, run⟩ := makeRoom_run (k := k) (s := s)
    rw [← same, run]
  · rw [makeRoom_other same]

theorem countMissing_stream (l : List StationNo) (s : State) (j : StreamNo) : (countMissing l s).stream j = s.stream j := by
  induction l generalizing s with
  | nil => rfl
  | cons n l ih => exact (ih _).trans (countStation_stream s n .missing j)

theorem retireIfDone_stream (t : GridTime) (s : State) (j : StreamNo) : (retireIfDone t s).stream j = s.stream j := by
  unfold retireIfDone
  split
  · rfl
  · split <;> rfl

theorem closeWindow_sameStates (k : StreamNo) (t : GridTime) (cause : CloseCause) (s : State) :
    SameStates s (closeWindow k t cause s) := by
  cases found : recordAt s t with
  | none => rw [closeWindow_none found]; exact fun _ => rfl
  | some r =>
    rw [closeWindow_some found, setFloor_buildSet]
    refine SameStates.trans ?_ (.of_stream fun j => (retireIfDone_stream _ _ j).trans (countMissing_stream _ _ j))
    refine SameStates.trans ?_ (setStreamRun_sameStates rfl)
    exact SameStates.trans (.of_stream fun _ => rfl) (makeRoom_sameStates k _)

theorem closeAll_sameStates (k : StreamNo) (cause : CloseCause) (s : State) : SameStates s (closeAll k cause s) := by
  unfold closeAll
  generalize instants s = l
  induction l generalizing s with
  | nil => exact fun _ => rfl
  | cons t l ih =>
    refine SameStates.trans ?_ (ih _)
    dsimp only
    split
    · exact closeWindow_sameStates k t cause s
    · exact fun _ => rfl

theorem endSlot_sameStates (d : SlotNo) (result : Result) (payload : List Byte) (s : State) :
    SameStates s (endSlot d result payload s) := by
  unfold endSlot
  split
  · exact fun _ => rfl
  · unfold forgetSlot
    split
    · refine SameStates.trans ?_ (setStreamRun_sameStates rfl)
      exact .of_stream fun j => placeAnswer_stream ..
    · exact .of_stream fun j => placeAnswer_stream ..

/-- The entry of a stream to STOPPED leaves the states of the other streams. -/
theorem stopStream_otherState {k j : StreamNo} (other : k ≠ j) (cause : StreamCause) (s : State) :
    ((stopStream k cause s).stream j).run.state = (s.stream j).run.state := by
  have stopped : ((pushNotice (.streamState k (s.stream k).run.state .stopped cause) (s.setStreamRun k
      { (s.stream k).run with state := .stopped, pendingStop := none })).stream j).run.state = (s.stream j).run.state := by
    rw [pushNotice_stream, State.stream_setStreamRun_other _ _ other]
  unfold stopStream
  dsimp only
  split
  · exact (endSlot_sameStates _ _ _ _ j).trans stopped
  · exact stopped

/-! ## CUT and FLUSH (R93, R109, R110) -/

theorem window_waiting_iff (w : Window) : w.waiting = true ↔ w.state = .opened ∨ ∃ why, w.state = .ready why := by
  rw [waiting_eq]
  cases w.state <;> simp

theorem hasWaiting_iff (s : State) (k : StreamNo) : hasWaiting s k = true ↔
    ∃ q ∈ s.timeline, q.windows[k].state = .opened ∨ ∃ why, q.windows[k].state = .ready why := by
  rw [hasWaiting, List.any_eq_true]
  simp only [window_waiting_iff]

/-- The instants at which a stream waits, read from the records. -/
theorem waitingInstants_eq {s : State} (n : (instants s).Nodup) (k : StreamNo) :
    waitingInstants k s = (s.timeline.filter (fun q => q.windows[k].waiting)).map (·.instant) := by
  rw [waitingInstants, instants, List.filter_map]
  refine congrArg _ (List.filter_congr fun q mem => waitingAt_of_mem n mem k)

/-- FLUSH on a stream leaves the states of the others. -/
theorem flushStream_otherState {k j : StreamNo} (other : k ≠ j) (s : State) :
    ((flushStream s k).stream j).run.state = (s.stream j).run.state := by
  unfold flushStream
  split
  · rfl
  · exact closeAll_sameStates k .flushed s j
  · exact (stopStream_otherState other _ _).trans (closeAll_sameStates k .flushed s j)

theorem stopStream_timeline (k : StreamNo) (cause : StreamCause) (s : State) :
    (stopStream k cause s).timeline = s.timeline := by
  simp only [stopStream]
  split
  · simp only [endSlot_timeline, pushNotice_timeline, State.setStreamRun_timeline]
  · simp only [pushNotice_timeline, State.setStreamRun_timeline]

/-- On the Timeline FLUSH acts as the direct close of a stream that is not STOPPED. -/
theorem flushStream_timeline (s : State) (k : StreamNo) : (s.stream k).run.state = .stopped ∧ flushStream s k = s ∨
    (flushStream s k).timeline = (closeAll k .flushed s).timeline := by
  unfold flushStream
  split
  · next stopped => exact .inl ⟨stopped, rfl⟩
  · exact .inr rfl
  · exact .inr (stopStream_timeline ..)

theorem StoreOk.flushStream {s : State} (ok : StoreOk s) (k : StreamNo) : StoreOk (flushStream s k) := by
  unfold Machine.flushStream
  split
  · exact ok
  · exact ok.closeAll k .flushed
  · exact (stopStream_settles k .flushed _).store (ok.closeAll k .flushed)

theorem hasWaiting_of_timeline {s t : State} (h : t.timeline = s.timeline) (k : StreamNo) :
    hasWaiting t k = hasWaiting s k := by
  rw [hasWaiting, h]
  rfl

/-- Closes make no stream wait. -/
theorem Closes.hasWaiting {s t : State} (h : Closes s t) (n : (instants s).Nodup) {k : StreamNo}
    (some : hasWaiting t k = true) : hasWaiting s k = true := by
  by_contra none
  rw [Bool.not_eq_true, hasWaiting_eq_false n] at none
  refine Bool.eq_false_iff.1 ((hasWaiting_eq_false (h.nodup n)).2 fun i => ?_) some
  exact Bool.eq_false_iff.2 fun waits => Bool.eq_false_iff.1 (none i) (h.waiting i k waits)

/-- FLUSH on a stream leaves the waiting windows of the others only. -/
theorem flushStream_hasWaiting {s : State} (n : (instants s).Nodup) {k j : StreamNo}
    (some : hasWaiting (flushStream s k) j = true) :
    hasWaiting s j = true ∧ ((s.stream k).run.state ≠ .stopped → k ≠ j) := by
  rcases flushStream_timeline s k with ⟨stopped, same⟩ | closed
  · rw [same] at some
    exact ⟨some, fun live => absurd stopped live⟩
  · rw [hasWaiting_of_timeline closed] at some
    refine ⟨(closeAll_closes k .flushed s).hasWaiting n some, ?_⟩
    rintro - rfl
    exact Bool.eq_false_iff.1 (closeAll_hasWaiting .flushed n) some

theorem flushStream_waiting {s : State} (n : (instants s).Nodup) (all : ∀ q ∈ s.timeline, q.waiting = true) (k : StreamNo) :
    ∀ q ∈ (flushStream s k).timeline, q.waiting = true := by
  rcases flushStream_timeline s k with ⟨-, same⟩ | closed
  · rwa [same]
  · rw [closed]
    exact closeAll_waiting .flushed n all

/-- Where every record waits for some stream, and no stream waits, there is no record and every report slot is free. -/
theorem timeline_empty {s : State} (ok : StoreOk s) (all : ∀ q ∈ s.timeline, q.waiting = true)
    (none : ∀ k, hasWaiting s k = false) : s.timeline = [] ∧ s.freeSlots = 16384 := by
  have empty : s.timeline = [] := List.eq_nil_iff_forall_not_mem.2 fun q mem => by
    obtain ⟨k, waits⟩ := (record_waiting_iff q).1 (all q mem)
    exact Bool.eq_false_iff.1 (none k) (List.any_eq_true.2 ⟨q, mem, waits⟩)
  have slots := ok.slots
  rw [heldSlots, empty] at slots
  exact ⟨empty, slots⟩

/-- FLUSH over a list of streams that holds every stream with a waiting window, none of them STOPPED. -/
theorem flush_empties (l : List StreamNo) {s : State} (ok : StoreOk s) (all : ∀ q ∈ s.timeline, q.waiting = true)
    (left : ∀ k, hasWaiting s k = true → k ∈ l ∧ (s.stream k).run.state ≠ .stopped) :
    (l.foldl flushStream s).timeline = [] ∧ (l.foldl flushStream s).freeSlots = 16384 := by
  induction l generalizing s with
  | nil => exact timeline_empty ok all fun k => Bool.eq_false_iff.2 fun some => List.not_mem_nil (left k some).1
  | cons k l ih =>
    have n := instants_nodup ok.ordered
    refine ih (ok.flushStream k) (flushStream_waiting n all k) fun j some => ?_
    obtain ⟨before, other⟩ := flushStream_hasWaiting n some
    obtain ⟨mem, live⟩ := left j before
    have other : k ≠ j := fun same => other (same ▸ live) same
    rw [flushStream_otherState other]
    exact ⟨(List.mem_cons.1 mem).resolve_left (Ne.symm other), live⟩

/-- Settles O39: direct closes, CUT and FLUSH. -/
theorem cutAndFlushCloseEveryWaitingWindow : Obligations.CutAndFlushCloseEveryWaitingWindow := by
  refine ⟨fun k cause s => ⟨hasWaiting_iff s k, fun ok => ?_⟩, fun gap r s offers => ?_⟩
  · have n := instants_nodup ok.ordered
    exact ⟨closeAll_hasWaiting cause n, by rw [← waitingInstants_eq n, closeAll_eq cause n]⟩
  intro u
  refine ⟨fun k carries mode target live free => ?_, fun k carries mode target live wait full => ?_, fun carries => ?flush⟩
  · refine (exec_stopCut_live carries target offers mode live).trans (next_finish ?_)
    by_cases wait : r.wait = 1
    · obtain ⟨d, found⟩ := Option.ne_none_iff_exists'.1 (free.resolve_left (by omega))
      rw [withSlot_of_free (s := s.taken gap) wait found]
      rfl
    · rw [withSlot_of_none (by have := carries.2.1; omega)]
      rfl
  · exact (exec_stopCut_live carries target offers mode live).trans (next_finish (withSlot_of_full (s := u) wait full))
  case flush =>
    refine ⟨allStreams.foldl flushStream u,
      (request_carried (handle := handleFlush) carries offers rfl).trans (next_finish rfl), rfl,
      fun ok all stopped => flush_empties allStreams (s := s.taken gap) ?_ all fun k some => ⟨mem_allStreams k, fun idle => ?_⟩⟩
    · exact ok.congr rfl rfl
    · exact Bool.eq_false_iff.1 (stopped k idle) some

/-! ## The entry to STOPPED and time steps (R89, R95, R111) -/

theorem setStreamRun_of_run {k : StreamNo} {x : StreamRun} {s : State} (h : (s.stream k).run = x) : s.setStreamRun k x = s := by
  rw [← h, State.setStreamRun_run]

/-- A stop's answer ends on the slot that its stream waits in. -/
theorem stopStream_held {k : StreamNo} {cause : StreamCause} {s : State} {d : SlotNo} {h : HeldAnswer}
    (pending : (s.stream k).run.pendingStop = some d) (held : s.slot d = some h) (op : h.op = .stream k) :
    stopStream k cause s = (placeAnswer h.link ⟨h.source, h.tag, h.kind, h.target, .ok, be8 cause.detail⟩
      (pushNotice (.streamState k (s.stream k).run.state .stopped cause)
        (s.setStreamRun k { (s.stream k).run with state := .stopped, pendingStop := none }))).setSlot d none := by
  simp only [stopStream, pending]
  rw [endSlot_stream_held (h := h) (k := k) (by simpa using held) op]
  exact setStreamRun_of_run (by simp)

theorem stepWindows_eq {t : GridTime} {k : StreamNo} {s : State} : stepWindows t k s =
    (closeAll k .stepped s).setStreamRun k { ((closeAll k .stepped s).stream k).run with
      floor := laterOf ((closeAll k .stepped s).stream k).run.floor t
      mark := laterOf ((closeAll k .stepped s).stream k).run.mark (laterOf ((closeAll k .stepped s).stream k).run.floor t)
      discontinuity := true } := by
  simp only [stepWindows, setFloor, State.stream_setStreamRun_same, State.setStreamRun_setStreamRun]

/-- Settles O40, by the pending stop and by the state of the stream. -/
theorem stoppedEntryAndTimeStepsOnStreams : Obligations.StoppedEntryAndTimeStepsOnStreams := by
  refine ⟨fun k cause s => ⟨stopStream_of_none, fun d h pending held op => ?_⟩, fun t k s => ?_⟩
  · refine (stopStream_held pending held op).trans ?_
    cases cause <;> rfl
  · intro v x floor w
    refine ⟨fun stopped => ?_, fun running => ?_, fun draining => ?_⟩
    · rw [stepStream, stopped]
    · rw [stepStream, running]
      exact stepWindows_eq
    · rw [stepStream, draining]
      exact congrArg (stopStream k .stepped) stepWindows_eq

end Sys2Proof.Machine
end

section
/-! PROOFS. The schedule (O41), deadlines and cascades (O42) and the opening of a window (O43). -/

namespace Sys2Proof.Machine

/-! ## The schedule (R73, R76, R78, R81, R97) -/

section
variable {k : StreamNo} {t : GridTime} {s : State}

theorem scheduleAt_present {r : Record} (found : recordAt s t = some r) : scheduleAt k t s = s := by
  rw [scheduleAt, found]

theorem scheduleAt_room (none : recordAt s t = none) (room : s.timeline.length < 512) :
    scheduleAt k t s = scheduleRecord t s := by
  rw [scheduleAt, none]
  exact if_pos room

theorem scheduleAt_full {o : Record} {rest : List Record} (none : recordAt s t = none) (full : 512 ≤ s.timeline.length)
    (oldest : s.timeline = o :: rest) : scheduleAt k t s =
      if earlier o.instant t then
        if anyWants (forceClose o.instant s) t then scheduleRecord t (forceClose o.instant s) else forceClose o.instant s
      else setFloor k t (storeDiscard s) := by
  have crowded : ¬ s.timeline.length < Config.recordCapacity := Nat.not_lt.2 full
  rw [oldest] at crowded
  simp only [scheduleAt, none, oldest, crowded, if_false]

theorem laterOf_self (t : GridTime) : laterOf t t = t := ite_self _

/-- A stream that skips an instant moves its floor and its mark there (R76). -/
theorem markReached_skipped (k : StreamNo) (t : GridTime) (s : State) : markReached k t (setFloor k t (storeDiscard s)) =
    { s.setStreamRun k { (s.stream k).run with floor := t, mark := t } with storeDiscards := satInc s.storeDiscards } := by
  simp only [markReached, setFloor, State.stream_setStreamRun_same, State.setStreamRun_setStreamRun, laterOf_self]
  rfl

theorem schedulePoint_running {u : GridTime} (running : (s.stream k).run.state = .running)
    (next : nextInstant (s.stream k).config.rate (s.stream k).run.mark = some u) :
    schedulePoint k s = reachSchedule k u (s.runClock (gridNs u - gridNs s.localTime)) := by
  have point : schedulePointOf s k = some u := (if_pos running).trans next
  rw [schedulePoint, point]
  rfl

theorem waitingAt_iff : waitingAt s t k = true ↔ ∃ q, recordAt s t = some q ∧ q.windows[k].waiting = true := by
  rw [waitingAt, windowAt]
  cases recordAt s t <;> simp

theorem retireIfDone_forcedCloses : (retireIfDone t s).forcedCloses = s.forcedCloses := by
  unfold retireIfDone
  split
  · rfl
  · split <;> rfl

end

/-- Settles O41: what the Timeline does at a schedule point, and the parts of a forced close. -/
theorem schedulePointReachesTheNextInstant : Obligations.SchedulePointReachesTheNextInstant := by
  refine ⟨fun s k t running next => ?_, fun t s => ?_⟩
  · intro u x reached created
    have point : exec (.schedulePoint k) s = .next (finish (markReached k t (scheduleAt k t u))) :=
      next_finish (schedulePoint_running running next)
    refine ⟨point, fun r found => point.trans (next_finish ?_), fun none room => point.trans (next_finish ?_),
      fun none full o rest oldest => ?_⟩
    · rw [scheduleAt_present (s := u) found]
      rfl
    · rw [scheduleAt_room (s := u) none room, scheduleRecord, createRecord, markReached]
    · have crowded := scheduleAt_full (s := u) (k := k) none full oldest
      refine ⟨fun before => point.trans (next_finish ?_), fun after => ?_⟩
      · rw [crowded, if_neg (Bool.eq_false_iff.1 (earlier_asymm before)), markReached_skipped]
        rfl
      · rw [if_pos after] at crowded
        refine ⟨fun wanted => point.trans (next_finish ?_), fun unwanted => point.trans (next_finish ?_)⟩
        · rw [crowded, if_pos wanted, scheduleRecord, createRecord, markReached]
        · rw [crowded, if_neg (Bool.eq_false_iff.1 unwanted), markReached]
  · intro v
    have windows : forceWindow t = fun v k => if ∃ q, recordAt v t = some q ∧ q.windows[k].waiting = true then
        settle k (drainIfDone k ((closeWindow k t .forced v).setStreamRun k { ((closeWindow k t .forced v).stream k).run with
          forced := satInc ((closeWindow k t .forced v).stream k).run.forced })) else v := by
      funext v k
      exact if_congr waitingAt_iff rfl rfl
    refine ⟨?_, forceClose_gone t s⟩
    rw [forceClose, windows, countForced, retireIfDone_forcedCloses]

/-! ## Deadlines and cascades (R104, R106, R108) -/

section
variable {k : StreamNo} {t : GridTime} {s : State}

theorem windowAt_of_some {r : Record} (found : recordAt s t = some r) (k : StreamNo) :
    windowAt s t k = some r.windows[k] := by
  rw [windowAt, found]
  rfl

theorem expireDeadline_opened {w : Window} (there : windowAt s t k = some w) (opened : w.state = .opened) :
    expireDeadline t k s = settle k (modifyRecord t (fun r => r.setWindow k { w with state := .ready .deadline }) s) := by
  simp only [expireDeadline, there, opened]

theorem expireDeadline_other {w : Window} (there : windowAt s t k = some w) (other : w.state ≠ .opened) :
    expireDeadline t k s = s := by
  simp only [expireDeadline, there]
  split
  · next opened => exact absurd opened other
  all_goals rfl

/-- The waiting instants of a stream begin with its first waiting record. -/
theorem waitingInstants_first (ok : StoreOk s) {q : Record}
    (first : s.timeline.find? (fun q => q.windows[k].waiting) = some q) : ∃ l, waitingInstants k s = q.instant :: l := by
  rw [← List.head?_filter] at first
  obtain ⟨l, filtered⟩ := List.head?_eq_some_iff.1 first
  exact ⟨l.map (·.instant), by rw [waitingInstants_eq (instants_nodup ok.ordered), filtered, List.map_cons]⟩

theorem waitingInstants_none (ok : StoreOk s) (none : s.timeline.find? (fun q => q.windows[k].waiting) = none) :
    waitingInstants k s = [] := by
  rw [waitingInstants_eq (instants_nodup ok.ordered), List.filter_eq_nil_iff.2 (List.find?_eq_none.1 none), List.map_nil]

/-- The first waiting window of a stream is in its record's place. -/
theorem windowAt_first (ok : StoreOk s) {q : Record} (first : s.timeline.find? (fun q => q.windows[k].waiting) = some q) :
    windowAt s q.instant k = some q.windows[k] :=
  windowAt_of_some (recordAt_of_mem (instants_nodup ok.ordered) (List.mem_of_find?_eq_some first)) k

/-- A stream whose earliest waiting window is READY closes it and settles again. -/
theorem settle_first_ready (ok : StoreOk s) {q : Record} {why : ReadyCause}
    (first : s.timeline.find? (fun q => q.windows[k].waiting) = some q) (ready : q.windows[k].state = .ready why) :
    settle k s = settle k (drainIfDone k (closeWindow k q.instant why.close s)) :=
  let ⟨_, instants⟩ := waitingInstants_first ok first
  settle_ready (instants_nodup ok.ordered) instants (windowAt_first ok first) ready

theorem settle_first_opened (ok : StoreOk s) {q : Record}
    (first : s.timeline.find? (fun q => q.windows[k].waiting) = some q) (opened : q.windows[k].state = .opened) :
    settle k s = s :=
  let ⟨_, instants⟩ := waitingInstants_first ok first
  settle_open instants (windowAt_first ok first) opened

end

/-- Settles O42, by the state of the window that expires and of the stream's first waiting window. -/
theorem deadlineExpiryMakesTheWindowReady : Obligations.DeadlineExpiryMakesTheWindowReady := by
  refine ⟨fun s k r d found deadline => ?_, fun k s ok => ⟨fun none => settle_idle (waitingInstants_none ok none),
    fun q first => ⟨settle_first_opened ok first, settle_first_ready ok first, settle_first_ready ok first⟩⟩, fun s => by
    simp only [settleAll, allStreams, List.foldl_cons, List.foldl_nil]⟩
  intro u
  have there : windowAt u r.instant k = some r.windows[k] := windowAt_of_some found k
  have expires : exec (.deadlineExpiry r.instant k) s = .next (finish (expireDeadline r.instant k u)) := by
    refine next_finish ?_
    rw [deadlineReached, windowAt_of_some found, Option.bind_some, deadline]
    rfl
  refine ⟨expires, fun opened => expires.trans (next_finish ?_), fun other => expires.trans (next_finish ?_)⟩
  · rw [expireDeadline_opened there opened, modifyRecord_setWindow]
    rfl
  · exact expireDeadline_other there other

/-! ## The opening of a window (R100-R103) -/

theorem mem_setInsert {n m : StationNo} {l : List StationNo} : m ∈ setInsert n l ↔ m = n ∨ m ∈ l := by
  induction l with
  | nil => simp [setInsert]
  | cons a l ih =>
    unfold setInsert
    split
    · simp
    · split
      · next same => simp [same]
      · rw [List.mem_cons, ih, List.mem_cons, or_left_comm]

theorem setInsert_rising {n : StationNo} {l : List StationNo} (rising : l.Pairwise (· < ·)) :
    (setInsert n l).Pairwise (· < ·) := by
  induction l with
  | nil => simp [setInsert]
  | cons a l ih =>
    obtain ⟨first, rest⟩ := List.pairwise_cons.1 rising
    unfold setInsert
    split
    · next below =>
      refine List.pairwise_cons.2 ⟨fun m mem => ?_, rising⟩
      rcases List.mem_cons.1 mem with rfl | mem
      · exact below
      · exact below.trans (first m mem)
    · split
      · exact rising
      · next notBelow other =>
        refine List.pairwise_cons.2 ⟨fun m mem => ?_, ih rest⟩
        rcases mem_setInsert.1 mem with rfl | mem
        · exact lt_of_le_of_ne (not_lt.1 notBelow) (Ne.symm other)
        · exact first m mem

/-- The stations that a list of plan entries adds to a set. -/
def addAwaited (s : State) (rate : RateCode) (r : Record) (entries : List PlanEntry) (l : List StationNo) : List StationNo :=
  entries.foldl (fun l e => if awaitedBy s rate r e then setInsert e.station l else l) l

theorem awaitedSet_eq (s : State) (c : StreamConfig) (r : Record) :
    awaitedSet s c r = addAwaited s c.rate r (planSegment s c) [] := rfl

theorem mem_addAwaited {s : State} {rate : RateCode} {r : Record} {n : StationNo} (entries : List PlanEntry)
    (l : List StationNo) : n ∈ addAwaited s rate r entries l ↔
      n ∈ l ∨ ∃ e ∈ entries, e.station = n ∧ awaitedBy s rate r e = true := by
  induction entries generalizing l with
  | nil => simp [addAwaited]
  | cons e entries ih =>
    rw [addAwaited, List.foldl_cons, ← addAwaited, ih]
    by_cases awaited : awaitedBy s rate r e = true
    · rw [if_pos awaited, mem_setInsert]
      simp only [List.mem_cons, exists_eq_or_imp, awaited, and_true]
      tauto
    · rw [if_neg awaited]
      simp only [List.mem_cons, exists_eq_or_imp, awaited]
      tauto

theorem addAwaited_rising {s : State} {rate : RateCode} {r : Record} (entries : List PlanEntry) {l : List StationNo}
    (rising : l.Pairwise (· < ·)) : (addAwaited s rate r entries l).Pairwise (· < ·) := by
  induction entries generalizing l with
  | nil => exact rising
  | cons e entries ih =>
    rw [addAwaited, List.foldl_cons, ← addAwaited]
    split
    · exact ih (setInsert_rising rising)
    · exact ih rising

theorem awaitedBy_iff (s : State) (rate : RateCode) (r : Record) (e : PlanEntry) : awaitedBy s rate r e = true ↔
    e.selector ≠ .unused ∧ (s.station e.station).run.state = .admitted ∧
      isDue (s.station e.station).config.rate rate r.instant = true ∧ arrivalOf r.arrivals e.station = none := by
  simp only [awaitedBy, Bool.and_eq_true, Bool.not_eq_true', beq_eq_false_iff_ne, beq_iff_eq, Option.isNone_iff_eq_none,
    and_assoc, ne_eq]

section
variable {s : State} {k : StreamNo} {r : Record}

theorem openedWindow_complete (empty : (openedWindow s k r).awaited = [])
    (complete : (s.stream k).config.closeOnComplete = true) : (openedWindow s k r).state = .ready .complete := by
  have empty : awaitedSet s (s.stream k).config r = [] := empty
  simp only [openedWindow, empty, complete, List.isEmpty_nil, Bool.and_self, if_true]

theorem openedWindow_timed (h : ¬((openedWindow s k r).awaited = [] ∧ (s.stream k).config.closeOnComplete = true))
    {d : GridTime} (deadline : (openedWindow s k r).deadline = some d) :
    (openedWindow s k r).state = if earlier s.localTime d then .opened else .ready .deadline := by
  have deadline := Option.some.inj deadline
  have open_ : ¬((awaitedSet s (s.stream k).config r).isEmpty && (s.stream k).config.closeOnComplete) = true := by
    rwa [Bool.and_eq_true, List.isEmpty_iff]
  rw [← deadline]
  refine (if_neg open_).trans ?_
  rw [atOrBefore]
  cases earlier s.localTime _ <;> rfl

end

/-- Settles O43: the fold over the plan segment, and the two ways of a window to be READY at once. -/
theorem openingFixesAwaitedSetDeadlineAndState : Obligations.OpeningFixesAwaitedSetDeadlineAndState := by
  intro s k r c w
  have awaited : w.awaited = addAwaited s c.rate r (planSegment s c) [] := awaitedSet_eq s c r
  refine ⟨fun n => ?_, awaited ▸ addAwaited_rising _ .nil, rfl, rfl, openedWindow_complete, fun h d => openedWindow_timed h⟩
  rw [awaited, mem_addAwaited]
  simp only [List.not_mem_nil, false_or, awaitedBy_iff]
  constructor
  · rintro ⟨e, mem, rfl, used, admitted, due, new⟩
    exact ⟨admitted, ⟨e, mem, rfl, used⟩, due, new⟩
  · rintro ⟨admitted, ⟨e, mem, rfl, used⟩, due, new⟩
    exact ⟨e, mem, rfl, used, admitted, due, new⟩

end Sys2Proof.Machine
end

section
/-! PROOFS. The Timebase: markers (O48, O49), message bytes (O51), window ends (O52) and the expiries of the holdover timer and
of completion limits (O53). -/

namespace Sys2Proof.Machine

/-! ## Markers outside a window or on an ABSENT input (R133, R134) -/

section
variable {i : InputId} {s : State}

theorem setInput_of_eq {x : RefInput} (h : inputOf s i = x) : setInput i x s = s := by
  subst h
  cases i <;> rfl

theorem marker_glitch {m : Nat} (here : (inputOf s i).qual ≠ .absent) (last : (inputOf s i).lastMarker = some m)
    (outside : 2000 + s.elapsed < 1000000000 * ((inputOf s i).missed + 1) + m ∨
      2000 + (1000000000 * ((inputOf s i).missed + 1) + m) < s.elapsed) :
    marker i s = setInput i { inputOf s i with glitches := satInc (inputOf s i).glitches } s := by
  have late : ¬ (inputOf s i).inWindow s.elapsed = true := by
    rw [inWindow_iff last]
    omega
  rw [marker, if_neg here, if_neg late]

theorem marker_first {m : TimeMessage} (absent : (inputOf s i).qual = .absent) (told : (inputOf s i).message = some m)
    (locked : m.locked = true) : marker i s = pushNotice (.inputState i .absent .qualifying .firstMarker)
      (setInput i { inputOf s i with
        qual := .qualifying, goodSeconds := 1, lastMarker := some s.elapsed, lastSecond := some m.second, message := none } s) := by
  rw [marker, if_pos absent, firstMarker]
  simp only [told, locked, if_true]
  rw [changeInput_new (by simp [absent]), absent]

theorem marker_unlocked (absent : (inputOf s i).qual = .absent) (told : ∀ m, (inputOf s i).message = some m → m.locked = false) :
    marker i s = setInput i { inputOf s i with message := none } s := by
  rw [marker, if_pos absent, firstMarker]
  cases message : (inputOf s i).message with
  | none =>
    have same : inputOf s i = { inputOf s i with message := none } := by rw [← message]
    exact (setInput_of_eq same).symm
  | some m => simp only [told m message, Bool.false_eq_true, if_false]

end

/-- Settles O48: a glitch, and the markers of an ABSENT input. -/
theorem glitchesAndFirstMarkers : Obligations.GlitchesAndFirstMarkers := by
  intro gap i s u x
  have input : inputOf u i = x := inputOf_runClock s gap i
  refine ⟨fun m here last outside => next_finish ?_, fun absent => ⟨fun m told locked => next_finish ?_,
    fun told => next_finish ?_⟩⟩
  · have glitch := marker_glitch (s := u) (i := i) (m := m)
    rw [input] at glitch
    exact glitch here last outside
  · have first := marker_first (s := u) (i := i) (m := m)
    rw [input] at first
    exact first absent told locked
  · have unlocked := marker_unlocked (s := u) (i := i)
    rw [input] at unlocked
    exact unlocked absent told

/-! ## Accepted markers (R135, R138-R142) -/

/-- The input qualifies at this good second. -/
def RefInput.qualifies (x : RefInput) : Prop := x.qual = .qualifying ∧ 7 ≤ x.goodSeconds

section
variable {x : RefInput} {now second : Nat}

theorem afterGood_qualifies (h : x.qualifies) : x.afterGood now second = { x with
    qual := .qualified, goodSeconds := 8, lastSecond := some second, lastMarker := some now, missed := 0, message := none } := by
  have enough : 8 ≤ x.goodSeconds + 1 := Nat.succ_le_succ h.2
  rw [RefInput.afterGood, if_pos enough, Nat.min_eq_left enough]

theorem afterGood_counts (h : ¬x.qualifies) (here : x.qual ≠ .absent) : x.afterGood now second = { x with
    goodSeconds := min 8 (x.goodSeconds + 1), lastSecond := some second, lastMarker := some now, missed := 0
    message := none } := by
  rw [RefInput.afterGood]
  split
  · next enough =>
    have qualified : x.qual = .qualified := by
      cases state : x.qual with
      | absent => exact absurd state here
      | qualifying => exact absurd ⟨state, by omega⟩ h
      | qualified => rfl
    rw [← qualified]
  · rfl

theorem qualified_afterGood_iff (x : RefInput) : (x.afterGood now second).qual = .qualified ↔
    x.qual = .qualified ∨ 7 ≤ x.goodSeconds := by
  by_cases enough : 8 ≤ x.goodSeconds + 1
  · simp only [RefInput.afterGood, enough, if_true, true_iff]
    exact .inr (by omega)
  · simp only [RefInput.afterGood, enough, if_false]
    exact ⟨.inl, fun h => h.resolve_right (by omega)⟩

end

section
variable {i : InputId} {s : State} {now second : Nat}

/-- The input that a good second qualifies pushes its notice. -/
theorem changeInput_qualifies (h : (inputOf s i).qualifies) :
    changeInput i ((inputOf s i).afterGood now second) .qualified s =
      pushNotice (.inputState i .qualifying .qualified .qualified) (setInput i { inputOf s i with
        qual := .qualified, goodSeconds := 8, lastSecond := some second, lastMarker := some now, missed := 0
        message := none } s) := by
  rw [afterGood_qualifies h, changeInput_new (by simp [h.1]), h.1]

/-- Any other good second leaves the state of the input. -/
theorem changeInput_counts (h : ¬(inputOf s i).qualifies) (here : (inputOf s i).qual ≠ .absent) :
    changeInput i ((inputOf s i).afterGood now second) .qualified s = setInput i { inputOf s i with
      goodSeconds := min 8 ((inputOf s i).goodSeconds + 1), lastSecond := some second, lastMarker := some now, missed := 0
      message := none } s := by
  rw [afterGood_counts h here]
  exact if_pos rfl

/-- The marker at which an input becomes QUALIFIED. -/
theorem became_iff {x : RefInput} (here : x.qual ≠ .absent) :
    (!(x.qual == .qualified) && (x.afterGood now second).qual == .qualified) = true ↔ x.qualifies := by
  rw [Bool.and_eq_true, Bool.not_eq_true', beq_eq_false_iff_ne, beq_iff_eq, qualified_afterGood_iff, RefInput.qualifies]
  cases state : x.qual with
  | absent => exact absurd state here
  | qualifying => simp
  | qualified => simp

theorem acceptMarker_good (good : (inputOf s i).goodSecond = some second) : acceptMarker i s =
    goodSecondOf i second (!((inputOf s i).qual == .qualified) &&
        ((inputOf s i).afterGood s.elapsed second).qual == .qualified)
      (changeInput i ((inputOf s i).afterGood s.elapsed second) .qualified s) := by
  rw [acceptMarker, good]

theorem acceptMarker_bad (bad : (inputOf s i).goodSecond = none) : acceptMarker i s =
    if (inputOf s i).qual = .qualified then inputLost i (changeInput i ((inputOf s i).afterBad s.elapsed) .badSecond s)
    else changeInput i ((inputOf s i).afterBad s.elapsed) .badSecond s := by
  rw [acceptMarker, bad]

theorem changeInput_badSecond (qualified : (inputOf s i).qual = .qualified) :
    changeInput i ((inputOf s i).afterBad now) .badSecond s = pushNotice (.inputState i .qualified .qualifying .badSecond)
      (setInput i ((inputOf s i).afterBad now) s) := by
  rw [changeInput_new (by simp [qualified, RefInput.afterBad]), qualified]
  rfl

theorem inputLost_other (h : s.timebase.mode ≠ .locked i) : inputLost i s = s := if_neg h

section
variable {became : Bool}

theorem goodSecondOf_locked (locked : s.timebase.mode = .locked i) :
    goodSecondOf i second became s = setLocalTime second s := by
  rw [goodSecondOf, locked]
  exact if_pos rfl

/-- A good second of the preferred input takes the Timebase back when it is QUALIFIED and revert is set (R142). -/
theorem goodSecondOf_locked_other {j : InputId} (locked : s.timebase.mode = .locked j) (other : j ≠ i) :
    goodSecondOf i second became s =
      if i = s.timebase.preferred ∧ s.timebase.revert = true ∧ (inputOf s i).qual = .qualified then
        setLocalTime second (lockTo i .revert s)
      else s := by
  rw [goodSecondOf, locked]
  exact if_neg (Ne.symm other)

theorem goodSecondOf_unlocked (unlocked : s.timebase.mode = .free ∨ s.timebase.mode = .holdover) :
    goodSecondOf i second became s = if became then setLocalTime second (lockTo i .qualified s) else s := by
  rcases unlocked with free | holdover
  · rw [goodSecondOf, free]
  · rw [goodSecondOf, holdover]

end

end

/-- Settles O49: the input's own change, then the Timebase's part by its mode. -/
theorem acceptedMarkersCountGoodSeconds : Obligations.AcceptedMarkersCountGoodSeconds := by
  intro gap i s m u x now mode good qualifies reverts counted locked bad disqualified here last opens closes
  have input : inputOf u i = x := inputOf_runClock s gap i
  have accepted : marker i u = acceptMarker i u := by
    rw [← input] at here last opens closes
    exact marker_accepted here last opens closes
  refine ⟨fun l isGood => ?good, fun noGood => ?bad⟩
  case good =>
    have second : (inputOf u i).goodSecond = some (l + 1) := by
      rw [input]
      exact goodSecond_iff.2 ⟨l, isGood.1, isGood.2.1, isGood.2.2, rfl⟩
    have counts : changeInput i (x.afterGood now (l + 1)) .qualified u = counted l := by
      by_cases h : qualifies
      · have c := changeInput_qualifies (s := u) (i := i) (now := now) (second := l + 1)
        rw [input] at c
        exact (c h).trans (if_pos h).symm
      · have c := changeInput_counts (s := u) (i := i) (now := now) (second := l + 1)
        rw [input] at c
        exact (c h here).trans (if_neg h).symm
    have step := accepted.trans (acceptMarker_good second)
    rw [input, show u.elapsed = now from rfl, counts] at step
    have mode_ : (counted l).timebase.mode = mode := by rw [← counts, changeInput_mode, runClock_mode]
    have preferred : (counted l).timebase.preferred = s.timebase.preferred := by
      rw [← counts, changeInput_preferred, runClock_preferred]
    have revert : (counted l).timebase.revert = s.timebase.revert := by
      rw [← counts, changeInput_revert, runClock_revert]
    have qual : (inputOf (counted l) i).qual = .qualified ↔ x.qual = .qualified ∨ 7 ≤ x.goodSeconds := by
      rw [← counts, inputOf_changeInput, qualified_afterGood_iff]
    have backs : (i = (counted l).timebase.preferred ∧ (counted l).timebase.revert = true ∧
        (inputOf (counted l) i).qual = .qualified) ↔ reverts := by
      rw [preferred, revert, qual]
    have locks (cause : TimebaseCause) : lockTo i cause (counted l) = locked cause (counted l) := by
      rw [lockTo, changeMode, mode_]
    refine ⟨fun own => ?own, fun j other ne back => ?revert, fun j other ne stay => ?other, fun unlocked => ?unlocked⟩
    case own => exact next_finish (step.trans (goodSecondOf_locked (mode_.trans own)))
    case revert =>
      refine next_finish (step.trans ((goodSecondOf_locked_other (mode_.trans other) ne).trans ?_))
      rw [if_pos (backs.2 back), locks]
    case other =>
      refine next_finish (step.trans ((goodSecondOf_locked_other (mode_.trans other) ne).trans ?_))
      rw [if_neg fun back => stay (backs.1 back)]
    case unlocked =>
      rw [← mode_] at unlocked
      have decided := step.trans (goodSecondOf_unlocked unlocked)
      refine ⟨fun h => next_finish (decided.trans ?_), fun h => next_finish (decided.trans ?_)⟩
      · rw [if_pos ((became_iff here).2 h), locks]
      · rw [if_neg fun became => h ((became_iff here).1 became)]
  case bad =>
    have none : (inputOf u i).goodSecond = none := by
      rw [input, Option.eq_none_iff_forall_ne_some]
      intro second found
      obtain ⟨l, at_, below, told, -⟩ := goodSecond_iff.1 found
      exact noGood l ⟨at_, below, told⟩
    have step := accepted.trans (acceptMarker_bad none)
    rw [input, show u.elapsed = now from rfl] at step
    have leaves (qualified : x.qual = .qualified) :
        exec (.marker gap i) s = .next (finish (inputLost i disqualified)) := by
      have change := changeInput_badSecond (s := u) (i := i) (now := now)
      rw [input] at change
      refine next_finish (step.trans ((if_pos qualified).trans (congrArg (inputLost i) (change qualified))))
    have mode_ : disqualified.timebase.mode = mode := by
      rw [pushNotice_timebase, setInput_mode, runClock_mode]
    refine ⟨fun qualifying => next_finish (step.trans ?_), fun qualified away => ?_, fun qualified _ => leaves qualified⟩
    · rw [if_neg (by simp [qualifying]), changeInput_same (by rw [input, qualifying]; rfl)]
      rfl
    · exact (leaves qualified).trans (next_finish (inputLost_other fun own => away (mode_.symm.trans own)))

/-! ## Bytes of a message line (R132, R180) -/

theorem messageSum_eq (b0 b1 b2 b3 b4 b5 b6 b7 : Byte) : messageSum [b0, b1, b2, b3, b4, b5, b6, b7] =
    b1.toNat + b2.toNat + b3.toNat + b4.toNat + b5.toNat + b6.toNat + b7.toNat := by
  simp [messageSum]

theorem messageValid_iff (b0 b1 b2 b3 b4 b5 b6 b7 : Byte) (f fault : Bool) :
    messageValid ⟨[b0, b1, b2, b3, b4, b5, b6, b7], f || fault⟩ = true ↔
      b1 = 5 ∧ (b6 = 0 ∨ b6 = 1) ∧ f = false ∧ fault = false ∧
        (b1.toNat + b2.toNat + b3.toNat + b4.toNat + b5.toNat + b6.toNat + b7.toNat) % 256 = 0 := by
  have length : byteAt [b0, b1, b2, b3, b4, b5, b6, b7] 1 = b1.toNat := rfl
  have quality : byteAt [b0, b1, b2, b3, b4, b5, b6, b7] 6 = b6.toNat := rfl
  have five : b1.toNat = 5 ↔ b1 = 5 := by bv_omega
  have known : b6.toNat ≤ 1 ↔ b6 = 0 ∨ b6 = 1 := by bv_omega
  simp only [messageValid, messageSum_eq, length, quality, Bool.and_eq_true, beq_iff_eq, decide_eq_true_eq,
    Bool.not_eq_true', Bool.or_eq_false_iff, five, known]
  tauto

theorem judge_valid {x : RefInput} {b0 b1 b2 b3 b4 b5 b6 b7 : Byte} {f : Bool}
    (valid : messageValid ⟨[b0, b1, b2, b3, b4, b5, b6, b7], f⟩ = true) : x.judge ⟨[b0, b1, b2, b3, b4, b5, b6, b7], f⟩ =
      { x with message := some ⟨16777216 * b2.toNat + 65536 * b3.toNat + 256 * b4.toNat + b5.toNat, decide (b6 = 0)⟩
               assembly := none } := by
  have second : numAt32 [b0, b1, b2, b3, b4, b5, b6, b7] 2 =
      16777216 * b2.toNat + 65536 * b3.toNat + 256 * b4.toNat + b5.toNat := by
    show 65536 * (256 * b2.toNat + b3.toNat) + (256 * b4.toNat + b5.toNat) = _
    omega
  have locked : (byteAt [b0, b1, b2, b3, b4, b5, b6, b7] 6 == 0) = decide (b6 = 0) := by
    show (b6.toNat == 0) = _
    rw [Bool.eq_iff_iff, beq_iff_eq, decide_eq_true_eq]
    bv_omega
  rw [RefInput.judge, if_pos valid, second, locked]

/-- Settles O51, by whether the byte is a start byte and what is being assembled. -/
theorem timeMessagesReplaceOrCount : Obligations.TimeMessagesReplaceOrCount := by
  refine ⟨fun gap i value fault s => ?_, fun gap i value fault rest s => ⟨rfl, rfl⟩⟩
  intro x now start ends
  have received (y : RefInput) (h : (if start then x.startMessage fault else x.takeByte value fault) = y) : ends y := by
    refine next_finish ((receiveByte_eq i value fault (s.runClock gap)).trans ?_)
    rw [inputOf_runClock, State.runClock_quiet, ← h]
    rfl
  have joins (h : ¬start) {y : RefInput} (taken : x.takeByte value fault = y) : ends y :=
    received y ((if_neg h).trans taken)
  refine ⟨fun h none => ?_, fun h some => ?_, fun h none => joins h ?_, fun l f h some short =>
    joins h (takeByte_joins some short value fault), fun b0 b1 b2 b3 b4 b5 b6 f h some => ?_⟩
  · refine received _ ((if_pos h).trans ?_)
    rw [RefInput.startMessage, none]
    rfl
  · refine received _ ((if_pos h).trans ?_)
    rw [RefInput.startMessage, if_pos (Option.isSome_iff_ne_none.2 some)]
  · rw [RefInput.takeByte, none]
  · intro valid second
    have judged := takeByte_eighth some rfl value fault
    have valid_ := messageValid_iff b0 b1 b2 b3 b4 b5 b6 value f fault
    exact ⟨fun ok => joins h (judged.trans (judge_valid (valid_.2 ok))),
      fun bad => joins h (judged.trans (if_neg fun ok => bad (valid_.1 ok)))⟩

/-! ## Window ends and the loss of the locked input (R136, R141) -/

section
variable {i : InputId} {s : State}

theorem windowMissed_first (few : (inputOf s i).missed < 2) : windowMissed i s = setInput i { inputOf s i with
    missed := (inputOf s i).missed + 1, message := none
    lastSecond := (inputOf s i).lastSecond.map (fun l => if l < 4294967295 then l + 1 else l) } s := if_pos few

/-- The third missed window makes the input ABSENT, and a QUALIFIED one leaves QUALIFIED for the Timebase. -/
theorem windowMissed_third (two : (inputOf s i).missed = 2) (here : (inputOf s i).qual ≠ .absent) : windowMissed i s =
    if (inputOf s i).qual = .qualified then
      inputLost i (pushNotice (.inputState i (inputOf s i).qual .absent .loss) (setInput i (inputOf s i).afterLoss s))
    else pushNotice (.inputState i (inputOf s i).qual .absent .loss) (setInput i (inputOf s i).afterLoss s) := by
  have gone : changeInput i (inputOf s i).afterLoss .loss s =
      pushNotice (.inputState i (inputOf s i).qual .absent .loss) (setInput i (inputOf s i).afterLoss s) :=
    changeInput_new (Ne.symm here) .loss
  rw [windowMissed, if_neg (by omega), gone]

theorem windowEnd_missed {m : Nat} (here : (inputOf s i).qual ≠ .absent) (last : (inputOf s i).lastMarker = some m) :
    windowEnd i s = windowMissed i (s.runClock (2001 + (1000000000 * ((inputOf s i).missed + 1) + m) - s.elapsed)) := by
  rw [windowEnd, if_neg here, RefInput.expected, last]
  rfl

/-- The Timebase locks to the other input where that is QUALIFIED. -/
theorem inputLost_switches (locked : s.timebase.mode = .locked i) (qualified : (inputOf s (otherInput i)).qual = .qualified) :
    inputLost i s = pushNotice (.timebaseState (.locked i) (.locked (otherInput i)) .switchover) { s with
      timebase := { s.timebase with
        mode := .locked (otherInput i), firstPending := true, timeKnown := true, holdoverTimer := none } } := by
  rw [inputLost, if_pos locked, loseLocked, if_pos qualified, lockTo, changeMode, locked]

theorem inputLost_holds (locked : s.timebase.mode = .locked i) (unqualified : (inputOf s (otherInput i)).qual ≠ .qualified) :
    inputLost i s = pushNotice (.timebaseState (.locked i) .holdover .lost) { s with
      timebase := { s.timebase with
        mode := .holdover, firstPending := false
        holdoverTimer := some (1000000000 * s.timebase.holdoverLimit + s.elapsed) } } := by
  rw [inputLost, if_pos locked, loseLocked, if_neg unqualified, changeMode, locked]

end

/-- Settles O52, by the number of missed windows and by the other input. -/
theorem windowEndsAndTheLossOfTheLockedInput : Obligations.WindowEndsAndTheLossOfTheLockedInput := by
  refine ⟨fun i s m => ?ends, fun i s locked => ⟨inputLost_switches locked, inputLost_holds locked⟩⟩
  case ends =>
    intro x u here last
    have input : inputOf u i = x := inputOf_runClock s _ i
    have ends : exec (.windowEnd i) s = .next (finish (windowMissed i u)) := next_finish (windowEnd_missed here last)
    have first := windowMissed_first (s := u) (i := i)
    have third := windowMissed_third (s := u) (i := i)
    rw [input] at first third
    refine ⟨fun few => ends.trans (next_finish (first few)), fun two away => ends.trans (next_finish ?_),
      fun two qualified => ends.trans (next_finish ?_)⟩
    · have stays : (pushNotice (.inputState i x.qual .absent .loss) (setInput i x.afterLoss u)).timebase.mode =
          s.timebase.mode := by
        rw [pushNotice_timebase, setInput_mode, runClock_mode]
      rw [third two here, inputLost_other (stays ▸ away), ite_self]
      rfl
    · rw [third two here, if_pos qualified, qualified]
      rfl

/-! ## Expiries (R143, R190) -/

theorem holdoverExpired_eq {s : State} {e : Nat} (timer : s.timebase.holdoverTimer = some e)
    (holdover : s.timebase.mode = .holdover) : holdoverExpired s =
      pushNotice (.timebaseState .holdover .free .holdoverExpired) { s.runClock (e - s.elapsed) with
        timebase := { (s.runClock (e - s.elapsed)).timebase with mode := .free, holdoverTimer := none } } := by
  rw [holdoverExpired, timer]
  simp only [changeMode, State.runClockTo, runClock_mode, holdover]

/-- Settles O53, by the operation that the slot waits for. -/
theorem holdoverAndCompletionLimitExpiries : Obligations.HoldoverAndCompletionLimitExpiries := by
  refine fun s => ⟨fun e timer holdover => next_finish ?_, fun d h held => ?_⟩
  · exact holdoverExpired_eq timer holdover
  · intro v
    have ends : limitExpired d s = endSlot d .timedOut [] (s.runClock (h.limit - s.elapsed)) := by
      rw [limitExpired, held]
      rfl
    have held : (s.runClock (h.limit - s.elapsed)).slot d = some h := held
    exact ⟨fun k op => next_finish (ends.trans (endSlot_stream_held held op .timedOut [])),
      fun n op => next_finish (ends.trans (endSlot_station_held held op .timedOut []))⟩

end Sys2Proof.Machine
end

section
/-! PROOFS. The Egress Arbiters: the choice of a center link (O54) and the ends of its transmissions (O55). -/

namespace Sys2Proof.Machine

/-! ## The stream whose set goes next (R171) -/

/-- A stream goes before another, or is the same: by priority value, then by number. -/
def goesBefore (s : State) (k j : StreamNo) : Prop :=
  (s.stream k).config.priority < (s.stream j).config.priority ∨
    (s.stream k).config.priority = (s.stream j).config.priority ∧ k ≤ j

/-- One turn of the search for the chosen stream. -/
def betterStream (s : State) (best : Option StreamNo) (k : StreamNo) : Option StreamNo :=
  match best with
  | none => some k
  | some b => if (s.stream k).config.priority < (s.stream b).config.priority then some k else some b

theorem chosenStream_eq (s : State) (c : CenterId) :
    chosenStream s c = (allStreams.filter (offersSet s c)).foldl (betterStream s) none := rfl

theorem goesBefore_antisymm {s : State} {k j : StreamNo} (h : goesBefore s k j) (g : goesBefore s j k) : k = j := by
  simp only [goesBefore, Fin.le_def] at h g
  exact Fin.ext (by omega)

theorem goesBefore_trans {s : State} {i j k : StreamNo} (h : goesBefore s i j) (g : goesBefore s j k) : goesBefore s i k := by
  simp only [goesBefore, Fin.le_def] at h g ⊢
  omega

/-- The search ends with a stream of the list that goes before every other. -/
theorem foldl_betterStream (s : State) (l : List StreamNo) (b : StreamNo) (rising : (b :: l).Pairwise (· < ·)) :
    ∃ r ∈ b :: l, l.foldl (betterStream s) (some b) = some r ∧ ∀ j ∈ b :: l, goesBefore s r j := by
  induction l generalizing b with
  | nil => exact ⟨b, List.mem_singleton_self b, rfl, fun j mem => .inr (by simp [List.mem_singleton.1 mem])⟩
  | cons a l ih =>
    obtain ⟨first, rest⟩ := List.pairwise_cons.1 rising
    rw [List.foldl_cons, betterStream]
    split
    · next lower =>
      obtain ⟨r, mem, found, before⟩ := ih a rest
      refine ⟨r, List.mem_cons_of_mem b mem, found, fun j of => ?_⟩
      rcases List.mem_cons.1 of with rfl | of
      · exact goesBefore_trans (before a List.mem_cons_self) (.inl lower)
      · exact before j of
    · next notLower =>
      obtain ⟨r, mem, found, before⟩ := ih b (List.pairwise_cons.2
        ⟨fun j of => first j (List.mem_cons_of_mem a of), (List.pairwise_cons.1 rest).2⟩)
      have earlier_ : goesBefore s b a := by
        have := Fin.lt_def.1 (first a List.mem_cons_self)
        rw [goesBefore, Fin.le_def]
        omega
      refine ⟨r, ?_, found, fun j of => ?_⟩
      · rcases List.mem_cons.1 mem with rfl | mem
        · exact List.mem_cons_self
        · exact List.mem_cons_of_mem b (List.mem_cons_of_mem a mem)
      · rcases List.mem_cons.1 of with rfl | of
        · exact before j List.mem_cons_self
        · rcases List.mem_cons.1 of with rfl | of
          · exact goesBefore_trans (before b List.mem_cons_self) earlier_
          · exact before j (List.mem_cons_of_mem b of)

section
variable {s : State} {c : CenterId}

theorem mem_offering (k : StreamNo) : k ∈ allStreams.filter (offersSet s c) ↔
    (s.stream k).config.link = c ∧ (s.stream k).run.queue ≠ [] := by
  rw [List.mem_filter, offersSet, Bool.and_eq_true, beq_iff_eq, Bool.not_eq_true', ← Bool.not_eq_true, List.isEmpty_iff]
  exact and_iff_right (mem_allStreams k)

theorem chosenStream_none (none : ∀ k, (s.stream k).config.link = c → (s.stream k).run.queue = []) :
    chosenStream s c = .none := by
  have empty : allStreams.filter (offersSet s c) = [] := List.eq_nil_iff_forall_not_mem.2 fun k mem =>
    ((mem_offering k).1 mem).2 (none k ((mem_offering k).1 mem).1)
  rw [chosenStream_eq, empty]
  rfl

theorem chosenStream_some {k : StreamNo} (link : (s.stream k).config.link = c) (queue : (s.stream k).run.queue ≠ [])
    (first : ∀ j, (s.stream j).config.link = c → (s.stream j).run.queue ≠ [] → goesBefore s k j) :
    chosenStream s c = some k := by
  have mem := (mem_offering k).2 ⟨link, queue⟩
  have rising : (allStreams.filter (offersSet s c)).Pairwise (· < ·) := List.Pairwise.filter _ (by decide)
  have least (j) (of : j ∈ allStreams.filter (offersSet s c)) : goesBefore s k j :=
    first j ((mem_offering j).1 of).1 ((mem_offering j).1 of).2
  rw [chosenStream_eq]
  cases offering : allStreams.filter (offersSet s c) with
  | nil =>
    rw [offering] at mem
    exact absurd mem List.not_mem_nil
  | cons b l =>
    rw [offering] at mem rising least
    obtain ⟨r, of, found, before⟩ := foldl_betterStream s l b rising
    exact found.trans (congrArg some (goesBefore_antisymm (before k mem) (least r of)))

/-! ## The sources in their order (R171-R174) -/

theorem choose_idle (up : (s.center c).up = true) (idle : (s.center c).tx = none) : choose c s = chooseSource c s := by
  rw [choose, up, idle]
  rfl

theorem choose_busy (h : (s.center c).up = false ∨ (s.center c).tx ≠ none) : choose c s = s := by
  refine if_neg fun ready => ?_
  rw [Bool.and_eq_true, Option.isNone_iff_eq_none] at ready
  rcases h with down | busy
  · exact Bool.eq_false_iff.1 down ready.1
  · exact busy ready.2

theorem chooseSource_answer {a : Answer} {rest : List Answer} (answers : (s.center c).answers = a :: rest) :
    chooseSource c s = beginAnswer c a rest s := by
  rw [chooseSource, answers]

theorem chooseSource_set {k : StreamNo} {a : AlignedSet} {rest : List AlignedSet} (answers : (s.center c).answers = [])
    (chosen : chosenStream s c = some k) (queue : (s.stream k).run.queue = a :: rest) :
    chooseSource c s = beginFragment c k a 0 (s.stream k).config.destination s := by
  simp only [chooseSource, answers, chosen, queue]

theorem chooseSource_last (answers : (s.center c).answers = []) (chosen : chosenStream s c = none) :
    chooseSource c s = chooseLast c s := by
  simp only [chooseSource, answers, chosen]

theorem chooseLast_notices (link : s.globals.noticeLink = c) (queue : s.notices.queue ≠ []) :
    chooseLast c s = beginNotices c s := if_pos ⟨link, queue⟩

theorem chooseLast_through {b : List Byte} {rest : List (List Byte)}
    (noNotices : s.globals.noticeLink ≠ c ∨ s.notices.queue = []) (link : s.globals.throughLink = c)
    (queue : s.passThrough = b :: rest) : chooseLast c s = beginPassThrough c b rest s := by
  have other : ¬(s.globals.noticeLink = c ∧ s.notices.queue ≠ []) := fun h => noNotices.elim (· h.1) h.2
  rw [chooseLast, if_neg other, if_pos link, queue]

theorem chooseLast_none (noNotices : s.globals.noticeLink ≠ c ∨ s.notices.queue = [])
    (noThrough : s.globals.throughLink ≠ c ∨ s.passThrough = []) : chooseLast c s = s := by
  have other : ¬(s.globals.noticeLink = c ∧ s.notices.queue ≠ []) := fun h => noNotices.elim (· h.1) h.2
  rw [chooseLast, if_neg other]
  rcases noThrough with link | empty
  · exact if_neg link
  · rw [empty]
    exact ite_self s

end

/-- Settles O54, by the sources in their order; the bytes are those of the tables. -/
theorem egressChoiceTakesTheFirstSource : Obligations.EgressChoiceTakesTheFirstSource := by
  refine ⟨fun c s => ?choice, fun s => rfl, fun n => ⟨rfl, rfl, rfl, be32_eq n⟩, fun s destination kind content => ?frame,
    fun unit a => rfl, fun k a i => rfl, by decide⟩
  case choice =>
    intro x
    refine ⟨choose_busy, fun up idle => ⟨fun a rest answers => ?_, fun none => ⟨fun k a rest link queue first => ?_,
      fun noSets => ?last⟩⟩⟩
    · exact (choose_idle up idle).trans (chooseSource_answer answers)
    · exact (choose_idle up idle).trans (chooseSource_set none (chosenStream_some link (by simp [queue]) first) queue)
    case last =>
      have last := (choose_idle up idle).trans (chooseSource_last none (chosenStream_none noSets))
      refine ⟨fun link queue => last.trans (chooseLast_notices link queue), fun noNotices =>
        ⟨fun b rest link queue => (last.trans (chooseLast_through noNotices link queue)).trans ?_,
          fun noThrough => last.trans (chooseLast_none noNotices noThrough)⟩⟩
      cases c <;> rfl
  case frame => rw [ownFrame, withCheck, frameCheck_eq]

/-! ## The ends of transmissions (R172, R173) -/

section
variable {s : State} {c : CenterId}

theorem frameComplete_frame {b : List Byte} (tx : (s.center c).tx = some (.answer b) ∨
    (s.center c).tx = some (.passThrough b) ∨ (s.center c).tx = some (.notices b)) : frameComplete c s = setTx c none s := by
  rcases tx with answer | through | notices
  · rw [frameComplete, answer]
  · rw [frameComplete, through]
  · rw [frameComplete, notices]

theorem fragmentComplete_eq {k : StreamNo} {i d : Nat} {b : List Byte} {a : AlignedSet} {rest : List AlignedSet}
    (tx : (s.center c).tx = some (.fragment k i d b)) (queue : (s.stream k).run.queue = a :: rest) : fragmentComplete c s =
      if i + 1 < fragmentCount a then beginFragment c k a (i + 1) d s
      else setTx c none (s.setStreamRun k { (s.stream k).run with queue := rest, sent := satInc (s.stream k).run.sent }) := by
  simp only [fragmentComplete, tx, queue]

theorem next_fragment_iff (a : AlignedSet) (i : Nat) : i + 1 < fragmentCount a ↔ 120 * (i + 1) < a.cells.length := by
  rw [fragmentCount, show Config.cellsPerFragment = 120 from rfl]
  omega

end

/-- Settles O55, by the transmission that ends. -/
theorem transmissionsEndAndFragmentsFollow : Obligations.TransmissionsEndAndFragmentsFollow := by
  intro gap c s u
  have center : u.center c = s.center c := State.center_runClock s gap c
  refine ⟨fun b tx => next_finish ?_, fun k i d b a rest tx queue => ?_⟩
  · rw [← center] at tx ⊢
    exact frameComplete_frame tx
  · have queue : (u.stream k).run.queue = a :: rest := queue
    rw [← center] at tx ⊢
    have complete := fragmentComplete_eq tx queue
    refine ⟨fun more => next_finish ?_, fun last => next_finish ?_⟩
    · rw [complete, if_pos ((next_fragment_iff a i).2 more)]
      rfl
    · rw [complete, if_neg fun more => absurd ((next_fragment_iff a i).1 more) (Nat.not_lt.2 last), setTx]
      cases c <;> rfl

end Sys2Proof.Machine
end

section
/-! PROOFS. Settings of local time, time steps, what a forward setting reaches, and the clock (O50). -/

namespace Sys2Proof.Machine

/-! ## What a forward setting reaches (R11, R97) -/

theorem atOrBefore_iff (a b : GridTime) : atOrBefore a b = true ↔ earlier b a = false := by
  rw [atOrBefore, Bool.not_eq_true']

theorem mem_dueDeadlines {s : State} {k : StreamNo} {e : GridTime × (State → State)} : e ∈ dueDeadlines s k ↔
    ∃ i d, deadlineDue s i k d ∧ e = (d, expireDeadline i k) := by
  rw [dueDeadlines, List.mem_filterMap]
  constructor
  · rintro ⟨q, mem, found⟩
    split at found
    · next d opened deadline =>
      split at found
      · next reached =>
        exact ⟨q.instant, d, ⟨q, mem, rfl, opened, deadline, (atOrBefore_iff _ _).1 reached⟩, (Option.some.inj found).symm⟩
      · cases found
    · cases found
  · rintro ⟨i, d, ⟨q, mem, rfl, opened, deadline, reached⟩, rfl⟩
    refine ⟨q, mem, ?_⟩
    rw [opened, deadline]
    exact if_pos ((atOrBefore_iff _ _).2 reached)

theorem mem_dueSchedule {s : State} {k : StreamNo} {e : GridTime × (State → State)} : e ∈ dueSchedule s k ↔
    ∃ t, pointDue s k t ∧ e = (t, reachSchedule k t) := by
  have point (t : GridTime) : schedulePointOf s k = some t ↔
      (s.stream k).run.state = .running ∧ nextInstant (s.stream k).config.rate (s.stream k).run.mark = some t := by
    rw [schedulePointOf]
    split <;> simp [*]
  rw [dueSchedule]
  constructor
  · intro mem
    split at mem
    · next t found =>
      split at mem
      · next reached =>
        obtain ⟨running, next⟩ := (point t).1 found
        exact ⟨t, ⟨running, next, (atOrBefore_iff _ _).1 reached⟩, List.mem_singleton.1 mem⟩
      · cases mem
    · cases mem
  · rintro ⟨t, ⟨running, next, reached⟩, rfl⟩
    simp only [(point t).2 ⟨running, next⟩, (atOrBefore_iff _ _).2 reached, if_true, List.mem_singleton]

theorem mem_dueEvents {s : State} {e : GridTime × (State → State)} : e ∈ dueEvents s ↔
    (∃ i k d, deadlineDue s i k d ∧ e = (d, expireDeadline i k)) ∨ ∃ k t, pointDue s k t ∧ e = (t, reachSchedule k t) := by
  rw [dueEvents, List.mem_append, List.mem_flatMap, List.mem_flatMap]
  simp only [mem_dueDeadlines, mem_dueSchedule, mem_allStreams, true_and]
  exact or_congr_left exists_comm

/-- Nothing is due earlier than the earliest event. -/
theorem noneDueBefore_earliest {s : State} {e : GridTime × (State → State)} (h : earliestEvent (dueEvents s) = some e) :
    noneDueBefore s e.1 :=
  ⟨fun i k d due => earliestEvent_le h _ (mem_dueEvents.2 (.inl ⟨i, k, d, due, rfl⟩)),
    fun k t due => earliestEvent_le h _ (mem_dueEvents.2 (.inr ⟨k, t, due, rfl⟩))⟩

theorem deadlineDue_dueAt {s : State} (ok : StoreOk s) {i : GridTime} {k : StreamNo} {d : GridTime}
    (due : deadlineDue s i k d) : dueAt s i k := by
  obtain ⟨q, mem, rfl, opened, deadline, reached⟩ := due
  exact ⟨q.windows[k], d, windowAt_of_some (recordAt_of_mem (instants_nodup ok.ordered) mem) k, opened, deadline, reached⟩

theorem takesDue_done {s : State} (h : earliestEvent (dueEvents s) = none) : TakesDue s s := by
  have none := earliestEvent_none h
  refine .done s (fun i k d due => ?_) fun k t due => ?_
  · exact List.not_mem_nil (none ▸ mem_dueEvents.2 (.inl ⟨i, k, d, due, rfl⟩))
  · exact List.not_mem_nil (none ▸ mem_dueEvents.2 (.inr ⟨k, t, due, rfl⟩))

/-- An event that is taken makes nothing due and leaves fewer due. -/
theorem event_fewer {u : List (GridTime × StreamNo)} {s : State} (ok : StoreOk s) (within : ∀ i k, dueAt s i k → (i, k) ∈ u)
    {e : GridTime × (State → State)} (mem : e ∈ dueEvents s) : Settles s (e.2 s) ∧ dueLeft u (e.2 s) < dueLeft u s := by
  rcases mem_dueEvents.1 mem with ⟨i, k, d, due, rfl⟩ | ⟨k, t, due, rfl⟩
  · have due := deadlineDue_dueAt ok due
    exact ⟨(expireDeadline_settles i k s).1, dueLeft_deadline (within i k due) due⟩
  · exact ⟨reachSchedule_settles (nextInstant_later due.2.1), dueLeft_point due.2.1 due.2.2⟩

theorem takesDue_step {s t : State} {e : GridTime × (State → State)} (h : earliestEvent (dueEvents s) = some e)
    (rest : TakesDue (e.2 s) t) : TakesDue s t := by
  have first := noneDueBefore_earliest h
  rcases mem_dueEvents.1 (earliestEvent_mem h) with ⟨i, k, d, due, rfl⟩ | ⟨k, i, due, rfl⟩
  · exact .deadline s t i k d due first rest
  · exact .point s t k i due first rest

/-- With turns for all that is left, whatever is due is taken, earliest first. -/
theorem reach_takesDue (u : List (GridTime × StreamNo)) (fuel : Nat) {s : State} (ok : StoreOk s)
    (within : ∀ i k, dueAt s i k → (i, k) ∈ u) (enough : dueLeft u s ≤ fuel) : TakesDue s (reach fuel s) := by
  induction fuel generalizing s with
  | zero =>
    cases h : earliestEvent (dueEvents s) with
    | none => exact takesDue_done h
    | some e =>
      have fewer := (event_fewer ok within (earliestEvent_mem h)).2
      omega
  | succ fuel ih =>
    rw [reach]
    cases h : earliestEvent (dueEvents s) with
    | none => exact takesDue_done h
    | some e =>
      obtain ⟨settles, fewer⟩ := event_fewer ok within (earliestEvent_mem h)
      exact takesDue_step h (ih (settles.store ok) (fun i k due => within i k (settles.due i k due)) (by omega))

theorem reachAll_takesDue {s : State} (ok : StoreOk s) : TakesDue s (reachAll s) :=
  reach_takesDue (windowsOf s) _ ok (fun _ _ => mem_windowsOf) (dueLeft_le_reachBound s)

/-! ## The clock (R2, R3) -/

theorem addNs_valid {t : GridTime} (valid : gridValid t = true) (d : Nat) : gridValid (addNs t d) = true ∧
    gridNs (addNs t d) = min (gridNs t + d) (gridNs ⟨4294967295, 999999999⟩) := by
  obtain ⟨sec, ns⟩ := (gridValid_iff t).1 valid
  have largest : gridNs gridMax = 4294967295999999999 := rfl
  rw [addNs, gridValid_iff, show gridNs ⟨4294967295, 999999999⟩ = 4294967295999999999 from rfl, largest]
  split
  · simp only [gridNs, Config.second] at *
    omega
  · rw [largest, show gridMax = ⟨4294967295, 999999999⟩ from rfl]
    dsimp only
    omega

/-! ## Time steps (R144, R145) -/

/-- A time step on streams that are all STOPPED pushes its notice and clears the latency maxima. -/
theorem stepStreams_stopped {t : GridTime} (l : List StreamNo) {s : State} (stopped : ∀ k, (s.stream k).run.state = .stopped) :
    l.foldl (stepStream t) s = s := by
  induction l with
  | nil => rfl
  | cons k l ih =>
    have idle : stepStream t s k = s := by rw [stepStream, stopped k]
    rw [List.foldl_cons, idle, ih]

theorem timeStep_stopped {d : Int} {s : State} (stopped : ∀ k, (s.stream k).run.state = .stopped) : timeStep d s =
    { pushNotice (.timeStep (stepMs d)) s with stations := mapVec Station.untracked s.stations } := by
  have pushed : ∀ k, ((pushNotice (.timeStep (stepMs d)) s).stream k).run.state = .stopped := fun k => by
    rw [pushNotice_stream, stopped k]
  rw [timeStep, stepStreams_stopped _ pushed, pushNotice_stations]

theorem foldl_allStreams (f : State → StreamNo → State) (s : State) :
    allStreams.foldl f s = f (f (f (f (f (f (f (f s 0) 1) 2) 3) 4) 5) 6) 7 := by
  simp only [allStreams, List.foldl_cons, List.foldl_nil]

/-- The streams as a time step leaves them, S0 first. -/
def streamsStepped (d : Int) (s : State) : State :=
  let stepped := stepStream s.localTime
  stepped (stepped (stepped (stepped (stepped (stepped (stepped (stepped
    (pushNotice (.timeStep (max (-2147483647) (min 2147483647 (d.tdiv 1000000)))) s) 0) 1) 2) 3) 4) 5) 6) 7

theorem timeStep_eq (d : Int) (s : State) : timeStep d s =
    { streamsStepped d s with stations := mapVec Station.untracked (streamsStepped d s).stations } := by
  rw [timeStep, pushNotice_localTime, foldl_allStreams, stepMs, streamsStepped]

/-! ## The marker that locks the Timebase (R138-R140, R143-R145) -/

/-- A push at a queue with room adds its body. -/
theorem pushNotice_bodies {s : State} (b : NoticeBody) (room : s.notices.queue.length < 256) :
    (pushNotice b s).notices.queue.map (·.body) = s.notices.queue.map (·.body) ++ [b] ∧
      (pushNotice b s).notices.queue.length = s.notices.queue.length + 1 := by
  rw [pushNotice_room b room]
  simp

/-- The state after a first setting that is a time step while no stream runs: local time, the notice, and the latency maxima
(R144, R145). -/
def steppedTo (second : Nat) (s : State) : State :=
  { pushNotice (.timeStep (stepMs (diffNs ⟨second, 0⟩ s.localTime)))
      { s with timebase := { s.timebase with localTime := ⟨second, 0⟩, firstPending := false } } with
    stations := mapVec Station.untracked s.stations }

section
variable {second : Nat} {s : State}

theorem setLocalTime_far (first : s.timebase.firstPending = true)
    (far : 1000000 < (diffNs ⟨second, 0⟩ s.localTime).natAbs) (stopped : ∀ k, (s.stream k).run.state = .stopped) :
    setLocalTime second s = steppedTo second s := (setLocalTime_step first far).trans (timeStep_stopped stopped)

theorem steppedTo_timebase :
    (steppedTo second s).timebase = { s.timebase with localTime := ⟨second, 0⟩, firstPending := false } := pushNotice_timebase ..

theorem steppedTo_station (n : StationNo) : (steppedTo second s).station n = (s.station n).untracked :=
  getElem_mapVec_fin Station.untracked s.stations n

theorem steppedTo_stream (k : StreamNo) : (steppedTo second s).stream k = s.stream k := pushNotice_stream ..

theorem steppedTo_timeline : (steppedTo second s).timeline = s.timeline := pushNotice_timeline ..

theorem steppedTo_elapsed : (steppedTo second s).elapsed = s.elapsed := pushNotice_elapsed ..

theorem steppedTo_bodies (room : s.notices.queue.length < 256) : (steppedTo second s).notices.queue.map (·.body) =
    s.notices.queue.map (·.body) ++ [.timeStep (stepMs (diffNs ⟨second, 0⟩ s.localTime))] :=
  (pushNotice_bodies (s := { s with timebase := { s.timebase with localTime := ⟨second, 0⟩, firstPending := false } })
    (.timeStep (stepMs (diffNs ⟨second, 0⟩ s.localTime))) room).1

end

/-- The state in which an input that just qualified has locked the Timebase. -/
def lockedState (i : InputId) (y : RefInput) (s : State) : State :=
  pushNotice (.timebaseState s.timebase.mode (.locked i) .qualified)
    { pushNotice (.inputState i .qualifying .qualified .qualified) (setInput i y s) with
      timebase := { (setInput i y s).timebase with
        mode := .locked i, firstPending := true, timeKnown := true, holdoverTimer := none } }

section
variable {i : InputId} {y : RefInput} {s : State}

theorem lockTo_lockedState : lockTo i .qualified
    (pushNotice (.inputState i .qualifying .qualified .qualified) (setInput i y s)) = lockedState i y s := by
  rw [lockTo, changeMode, pushNotice_timebase, setInput_mode]
  rfl

theorem lockedState_timebase : (lockedState i y s).timebase = { (setInput i y s).timebase with
    mode := .locked i, firstPending := true, timeKnown := true, holdoverTimer := none } := by
  rw [lockedState, pushNotice_timebase]

theorem lockedState_bodies (room : s.notices.queue.length < 255) :
    (lockedState i y s).notices.queue.map (·.body) = s.notices.queue.map (·.body) ++
      [.inputState i .qualifying .qualified .qualified, .timebaseState s.timebase.mode (.locked i) .qualified] ∧
    (lockedState i y s).notices.queue.length = s.notices.queue.length + 2 := by
  have same : (setInput i y s).notices = s.notices := by cases i <;> rfl
  obtain ⟨bodies, length⟩ := pushNotice_bodies (s := setInput i y s) (.inputState i .qualifying .qualified .qualified)
    (by rw [same]; omega)
  rw [same] at bodies length
  have second := pushNotice_bodies (s := { pushNotice (.inputState i .qualifying .qualified .qualified) (setInput i y s) with
    timebase := { (setInput i y s).timebase with
      mode := .locked i, firstPending := true, timeKnown := true, holdoverTimer := none } })
    (.timebaseState s.timebase.mode (.locked i) .qualified) (by dsimp only; omega)
  refine ⟨second.1.trans ?_, second.2.trans ?_⟩
  · dsimp only
    rw [bodies, List.append_assoc]
    rfl
  · dsimp only
    rw [length]

theorem lockedState_station (n : StationNo) : (lockedState i y s).station n = s.station n := by
  rw [lockedState, pushNotice_station]
  exact (pushNotice_station ..).trans (by cases i <;> rfl)

theorem lockedState_stream (k : StreamNo) : (lockedState i y s).stream k = s.stream k := by
  rw [lockedState, pushNotice_stream]
  exact (pushNotice_stream ..).trans (setInput_stream ..)

theorem lockedState_timeline : (lockedState i y s).timeline = s.timeline := by
  rw [lockedState, pushNotice_timeline]
  exact (pushNotice_timeline ..).trans (by cases i <;> rfl)

theorem lockedState_elapsed : (lockedState i y s).elapsed = s.elapsed := by
  rw [lockedState, pushNotice_elapsed]
  exact (pushNotice_elapsed ..).trans (by cases i <;> rfl)

end

/-- The eighth good second of an input in FREE or HOLDOVER (R138, R139, R143). -/
theorem marker_qualifies {i : InputId} {s : State} {m second : Nat} (qualifies : (inputOf s i).qualifies)
    (last : (inputOf s i).lastMarker = some m) (opens : 1000000000 * ((inputOf s i).missed + 1) + m ≤ 2000 + s.elapsed)
    (closes : s.elapsed ≤ 2000 + (1000000000 * ((inputOf s i).missed + 1) + m))
    (good : (inputOf s i).goodSecond = some second) (unlocked : s.timebase.mode = .free ∨ s.timebase.mode = .holdover) :
    marker i s = setLocalTime second (lockedState i { inputOf s i with
      qual := .qualified, goodSeconds := 8, lastSecond := some second, lastMarker := some s.elapsed, missed := 0
      message := none } s) := by
  have here : (inputOf s i).qual ≠ .absent := by simp [qualifies.1]
  rw [marker_accepted here last opens closes, acceptMarker_good good, goodSecondOf_unlocked (by rw [changeInput_mode]; exact unlocked),
    if_pos ((became_iff here).2 qualifies), changeInput_qualifies qualifies, lockTo_lockedState]

/-- Settles O50: the marker that locks the Timebase, settings of local time, time steps and the clock. -/
theorem qualificationLocksAndStepsTheTime : Obligations.QualificationLocksAndStepsTheTime := by
  refine ⟨fun gap i s m l => ?marker, fun second s => ?setting, fun d s => ?step, fun s ok => reachAll_takesDue ok,
    fun ns s => ⟨rfl, fun valid => addNs_valid valid ns⟩, fun a b => ⟨rfl, rfl⟩⟩
  case marker =>
    intro u x now d qualifying seven last opens closes at_ below told unlocked stopped far room
    have here : x.qual ≠ .absent := by simp [qualifying]
    have qualifies : x.qualifies := ⟨qualifying, Nat.le_of_eq seven.symm⟩
    have input : inputOf u i = x := inputOf_runClock s gap i
    let y : RefInput := { x with
      qual := .qualified, goodSeconds := 8, lastSecond := some (l + 1), lastMarker := some now, missed := 0, message := none }
    have locks : marker i u = setLocalTime (l + 1) (lockedState i y u) := by
      have accepted := marker_qualifies (s := u) (i := i) (m := m) (second := l + 1)
      rw [input] at accepted
      exact accepted qualifies last opens closes (goodSecond_iff.2 ⟨l, at_, below, told, rfl⟩) unlocked
    have timebase := lockedState_timebase (i := i) (y := y) (s := u)
    have localTime : (lockedState i y u).localTime = u.localTime := by
      rw [State.localTime, timebase]
      exact setInput_localTime u i y
    have steps := setLocalTime_far (second := l + 1) (s := lockedState i y u) (by rw [timebase]) (by rw [localTime]; exact far)
      (fun k => by rw [lockedState_stream]; exact stopped k)
    obtain ⟨bodies, length⟩ := lockedState_bodies (i := i) (y := y) (s := u) (by show s.notices.queue.length < 255; omega)
    refine ⟨_, next_finish (locks.trans steps), ?input, ?mode, ?known, ?holdover, ?first, ?time, ?elapsed, ?bodies,
      fun n => ?station, fun k => ?stream, ?timeline⟩
    case input =>
      rw [inputOf, steppedTo_timebase, timebase]
      cases i <;> rfl
    case mode => rw [steppedTo_timebase, timebase]
    case known => rw [steppedTo_timebase, timebase]
    case holdover => rw [steppedTo_timebase, timebase]
    case first => rw [steppedTo_timebase]
    case time => rw [State.localTime, steppedTo_timebase]
    case elapsed => rw [steppedTo_elapsed, lockedState_elapsed]; rfl
    case bodies =>
      rw [steppedTo_bodies (by rw [length]; show s.notices.queue.length + 2 < 256; omega), bodies, localTime, List.append_assoc]
      rfl
    case station => rw [steppedTo_station, lockedState_station]; rfl
    case stream => rw [steppedTo_stream, lockedState_stream]; rfl
    case timeline => rw [steppedTo_timeline, lockedState_timeline]; rfl
  case setting =>
    intro d w
    refine ⟨setLocalTime_step, fun h => ⟨fun forward => (setLocalTime_plain h).trans (if_pos forward),
      fun other => (setLocalTime_plain h).trans (if_neg (Bool.eq_false_iff.1 other))⟩⟩
  case step =>
    intro stepped v
    have steps : timeStep d s = { v with stations := mapVec Station.untracked v.stations } := timeStep_eq d s
    clear_value v
    exact ⟨_, steps, rfl, getElem_mapVec_fin Station.untracked v.stations⟩

end Sys2Proof.Machine
end
